-- ==== Sys2Proof/Word.lean ====
section
/-!
DEFINITION. The word types of the block: the fixed widths of 00_scope.md R12.
-/
namespace Sys2Proof

/-- A 16-bit value: phase increment, accumulator, sine, cosine, partial, `data_in`, `data_out` (R12). -/
abbrev Word := BitVec 16

/-- A 4-bit value: `pending_value`, `pending_mask` and the `mask` port (R12). -/
abbrev Nibble := BitVec 4

/-- The 2-bit waveform field (R12). It stays a bit vector because the merge writes it bit by bit (R141). -/
abbrev WaveCode := BitVec 2

end Sys2Proof
end

