-- ==== Sys2Proof/Config.lean ====
section
/-!
DEFINITION. The parameters of the block (00_scope.md R7 to R11): fixed at construction, never changed by a tick.
Which values are legal is `Config.legal` in Machine/Operands.lean. No value of the spec is left undefined, so
there is no free value here.
-/
namespace Sys2Proof

/-- The parameters a model takes as arguments (R7 to R11; 92_eei_decisions.md P1 to P5). -/
structure Config where
  /-- The number of oscillators, the source's `count` (R7). -/
  N : Nat
  /-- The multiplier latency in ticks and the number of pipeline slots, the source's `multiplier_delay` (R8). -/
  D : Nat
  /-- The width of the address port in bits (R9). -/
  addrW : Nat
  /-- The fraction bits of the sine and cosine state (R10). -/
  fracBits : Nat
  /-- The right shift of the multiplier's product (R11). -/
  mulShift : Nat
deriving DecidableEq, Repr

/-- The configuration `State.reset` is built with. FRAC_BITS, MUL_SHIFT and ADDR_W are the spec's defaults (P3 to P5);
DESIGN CHOICE (log entry 2): N = 3 and D = 2, for which the spec gives no default. Unsafe for a claim about
`State.reset` alone; claims over every `Config` do not rest on it. -/
def Config.default : Config :=
  { N := 3, D := 2, addrW := 2, fracBits := 14, mulShift := 16 }

end Sys2Proof
end

