-- ==== Sys2Proof/Syntax.lean ====
section
/-!
DEFINITION. The instructions: one constructor for each row of spec/opcode_table.json, the four waveforms, and the
raw word the host presents in one cycle.
-/
namespace Sys2Proof

/-- The four waveforms, in the order of their codes (30_encoding.md R78). -/
inductive Waveform where
  | ramp
  | square
  | triangle
  | sine
deriving DecidableEq, Repr

/-- What the host presents in one cycle: HC in bits 22:0 (30_encoding.md R71) and the address beside it.
DESIGN CHOICE (log entry 9): HC is padded to three whole bytes; bit 23 is no port and the decoder rejects it set. -/
structure HostWord where
  hc : BitVec 24
  address : Nat
deriving DecidableEq, Repr

/-- Why the decoder rejects a word. No value of HC itself is illegal (R79). -/
inductive DecodeError where
  /-- Bit 23 of the padded word is 1: no port has that bit (log entry 9). -/
  | paddingBitSet
deriving DecidableEq, Repr

/-- The operations of the block, a constructor for each row of the opcode table. In the operands `u` is the `update`
bit, `a` is u(address), and the other letters are those of the row's pattern (R71 to R73). -/
inductive Instr where
  /-- NOWRITE (R101), pattern `u0xxx…`. -/
  | nowrite (u : Bool) (a : Nat)
  /-- WRPINC addr, imm16 (R102), pattern `u10xxxxdddddddddddddddd`. -/
  | wrpinc (u : Bool) (a : Nat) (imm16 : Word)
  /-- WRWFDR addr, mask4, val4 (R103), pattern `u11mmmmxxxxxxxxxxxxvvvv`. -/
  | wrwfdr (u : Bool) (a : Nat) (m v : Nibble)
  /-- UPDATE (R105), pattern `1wsmmmmdddddddddddddddd`: the pulse with any write group. -/
  | update (w sel : Bool) (m : Nibble) (d : Word) (a : Nat)
  /-- READ addr (R104): no HC bits. -/
  | read (a : Nat)
  /-- CONFIGURE(count, multiplier_delay) with the parameters ADDR_W, FRAC_BITS, MUL_SHIFT (R100): no HC bits. -/
  | configure (count delay addrW fracBits mulShift : Nat)
  /-- RESETOSC a (R82). -/
  | resetosc (u : Bool) (a : Nat)
  /-- SETWAVE a, W (R82). -/
  | setwave (u : Bool) (a : Nat) (W : Waveform)
  /-- SETDIR a, d (R82). -/
  | setdir (u : Bool) (a : Nat) (d : Bool)
  /-- SETWDR a, W, d, r (R82). -/
  | setwdr (u : Bool) (a : Nat) (W : Waveform) (d r : Bool)
  /-- SWEEP (R82): UPDATE, then N-1 idle ticks. -/
  | sweep
  /-- WAIT k (R82): k idle ticks. -/
  | wait (k : Nat)
  /-- TICK (R120): one clock edge with the values on the input ports. -/
  | tick
  /-- SWEEP_START (R121). -/
  | sweepStart
  /-- SWEEP_ADVANCE (R122). -/
  | sweepAdvance
  /-- RETRIGGER_IGNORED (R123). -/
  | retriggerIgnored
  /-- SERVICE (R124). -/
  | service
  /-- PHASE_ADVANCE (R125). -/
  | phaseAdvance
  /-- TRIANGLE_FLIP (R126). -/
  | triangleFlip
  /-- RESET_REQUEST (R140). -/
  | resetRequest
  /-- MERGE_WAVE (R141). -/
  | mergeWave
  /-- MERGE_DIR (R142). -/
  | mergeDir
  /-- OSC_RESET (R143). -/
  | oscReset
  /-- MASK_CLEAR (R144). -/
  | maskClear
  /-- MERGE (R145). -/
  | merge
  /-- ISSUE (R160). -/
  | issue
  /-- MULSIN (R161). -/
  | mulsin
  /-- MULCOS (R162). -/
  | mulcos
  /-- NO_ISSUE (R164). -/
  | noIssue
  /-- SHIFT (R165). -/
  | shift
  /-- WRITEBACK (R166). -/
  | writeback
  /-- DECODE (R184). -/
  | decode
  /-- DECODE_SINE (R180). -/
  | decodeSine
  /-- DECODE_RAMP (R181). -/
  | decodeRamp
  /-- DECODE_TRIANGLE (R182). -/
  | decodeTriangle
  /-- DECODE_SQUARE (R183). -/
  | decodeSquare
deriving DecidableEq, Repr

end Sys2Proof
end

