-- ==== Sys2Proof/WellFormed.lean ====
section
/-!
DEFINITION. Which instructions can be presented to a block with the given parameters.
-/
namespace Sys2Proof

/-- The value the operation puts on the `address` port, if it drives that port (30_encoding.md R74, R76, R77). -/
def Instr.portAddress : Instr → Option Nat
  | .nowrite _ a | .wrpinc _ a _ | .wrwfdr _ a _ _ | .update _ _ _ _ a | .read a => some a
  | .resetosc _ a | .setwave _ a _ | .setdir _ a _ | .setwdr _ a _ _ _ => some a
  | .configure _ _ _ _ _ | .sweep | .wait _ | .tick | .sweepStart | .sweepAdvance => none
  | .retriggerIgnored | .service | .phaseAdvance | .triangleFlip | .resetRequest => none
  | .mergeWave | .mergeDir | .oscReset | .maskClear | .merge | .issue | .mulsin => none
  | .mulcos | .noIssue | .shift | .writeback | .decode | .decodeSine => none
  | .decodeRamp | .decodeTriangle | .decodeSquare => none

/-- An operation is well formed when the address port of ADDR_W bits can carry its address (00_scope.md R9).
An address in `[N, 2^ADDR_W)` is well formed and out of range (60_exceptions.md R201, R202); every data value is
legal (R79), and a CONFIGURE with bad parameters is a ConfigError (R200), not a malformed term. -/
def Instr.wf (c : Config) (i : Instr) : Bool :=
  match i.portAddress with
  | some a => decide (a < 2 ^ c.addrW)
  | none => true

end Sys2Proof
end

