-- ==== Sys2Proof/Decode.lean ====
section
/-!
DEFINITION. The decoder of a host-cycle word, the encoder beside it, and the waveform codes
(30_encoding.md R71 to R82).
-/
namespace Sys2Proof

/-! ### Waveform codes -/

/-- The code of a waveform (R78). -/
def Waveform.code : Waveform → WaveCode
  | .ramp => 0b00
  | .square => 0b01
  | .triangle => 0b10
  | .sine => 0b11

/-- The waveform of a code; all four codes are legal (R78). -/
def Waveform.ofCode (c : WaveCode) : Waveform :=
  if c = 0b00 then .ramp else if c = 0b01 then .square else if c = 0b10 then .triangle else .sine

/-! ### The fields of the word (R71) -/

/-- HC bit 22, `update`. -/
def HostWord.updateBit (w : HostWord) : Bool := w.hc.getLsbD 22

/-- HC bit 21, `write_enable`. -/
def HostWord.writeBit (w : HostWord) : Bool := w.hc.getLsbD 21

/-- HC bit 20, `select`. -/
def HostWord.selectBit (w : HostWord) : Bool := w.hc.getLsbD 20

/-- HC bits 19:16, `mask`. -/
def HostWord.maskField (w : HostWord) : Nibble := w.hc.extractLsb' 16 4

/-- HC bits 15:0, `data_in`. -/
def HostWord.dataField (w : HostWord) : Word := w.hc.extractLsb' 0 16

/-- The used bits 3:0 of `data_in` in a WFDR write (R71, R77). -/
def wfdrValue (d : Word) : Nibble := d.extractLsb' 0 4

/-- Pack the inputs into a word: `HC = (U, W, S, M, DATA)` below a padding bit of 0 (R71). -/
def packHC (u w s : Bool) (m : Nibble) (d : Word) : BitVec 24 :=
  0#1 ++ BitVec.ofBool u ++ BitVec.ofBool w ++ BitVec.ofBool s ++ m ++ d

/-! ### Decode -/

/-- A WRWFDR word named by its row: the pseudo-instruction of R82 whose match and mask it fits, else WRWFDR.
DESIGN CHOICE (log entry 11): the narrower row names the word; its meaning is that of the WRWFDR (R82). Safe. -/
def decodeWfdr (u : Bool) (a : Nat) (m v : Nibble) : Instr :=
  if m = 0b0001 ∧ v = 0b0001 then .resetosc u a
  else if m = 0b1100 ∧ v.extractLsb' 0 2 = 0 then .setwave u a (.ofCode (v.extractLsb' 2 2))
  else if m = 0b0010 ∧ v &&& 0b1101 = 0 then .setdir u a (v.getLsbD 1)
  else if m = 0b1111 then .setwdr u a (.ofCode (v.extractLsb' 2 2)) (v.getLsbD 1) (v.getLsbD 0)
  else .wrwfdr u a m v

/-- The decoder, total on every word: the write group by bits 21:20 (R72) and the update bit beside it (R73).
A word with the pulse and no write is UPDATE; one with both is the write with `u` set (log entry 11). -/
def decode (w : HostWord) : Except DecodeError Instr :=
  if w.hc.getLsbD 23 then .error .paddingBitSet
  else match w.writeBit, w.selectBit with
    | false, sel =>
      if w.updateBit then .ok (.update false sel w.maskField w.dataField w.address)
      else .ok (.nowrite false w.address)
    | true, false => .ok (.wrpinc w.updateBit w.address w.dataField)
    | true, true => .ok (decodeWfdr w.updateBit w.address w.maskField (wfdrValue w.dataField))

/-! ### Encode -/

/-- The 4-bit WFDR value `(code(W) << 2) OR (d << 1) OR r` (R82). -/
def wfdrBits (W : Waveform) (d r : Bool) : Nibble :=
  W.code ++ BitVec.ofBool d ++ BitVec.ofBool r

/-- The word of a WRWFDR (R81): the ignored bits 15:4 are 0. -/
def encodeWfdr (u : Bool) (a : Nat) (m v : Nibble) : HostWord :=
  ⟨packHC u true true m (v.setWidth 16), a⟩

/-- The word of an operation that one host-cycle word carries, ignored bits 0 (R72, R73, R81, R82). READ, CONFIGURE and
the internal operations have no HC encoding (R74, R75); SWEEP and WAIT are several words (Machine/Assembler.lean). -/
def encode : Instr → Option HostWord
  | .nowrite u a => some ⟨packHC u false false 0 0, a⟩
  | .wrpinc u a imm16 => some ⟨packHC u true false 0 imm16, a⟩
  | .wrwfdr u a m v => some (encodeWfdr u a m v)
  | .update w sel m d a => some ⟨packHC true w sel m d, a⟩
  | .resetosc u a => some (encodeWfdr u a 0b0001 0b0001)
  | .setwave u a W => some (encodeWfdr u a 0b1100 (wfdrBits W false false))
  | .setdir u a d => some (encodeWfdr u a 0b0010 (wfdrBits .ramp d false))
  | .setwdr u a W d r => some (encodeWfdr u a 0b1111 (wfdrBits W d r))
  | .read _ | .configure _ _ _ _ _ | .sweep | .wait _ => none
  | .tick | .sweepStart | .sweepAdvance | .retriggerIgnored | .service | .phaseAdvance => none
  | .triangleFlip | .resetRequest | .mergeWave | .mergeDir | .oscReset | .maskClear => none
  | .merge | .issue | .mulsin | .mulcos | .noIssue | .shift | .writeback | .decode => none
  | .decodeSine | .decodeRamp | .decodeTriangle | .decodeSquare => none

/-- The spelling `decode` gives to the word of an operation: two rows of the table can fit one word (R73, R82). -/
def Instr.spelling : Instr → Instr
  | .nowrite true a => .update false false 0 0 a
  | .wrwfdr u a m v => decodeWfdr u a m v
  | .update true false _ d a => .wrpinc true a d
  | .update true true m d a => decodeWfdr true a m (wfdrValue d)
  | i => i

/-! ### The opcode table's numbering -/

/-- The word whose bits are `w` as the opcode table numbers them: HC is bits 22:0, padding is bit 23, and the address,
to which the table gives no bits, counts on from bit 24. Bits from `nbits` up are 0. -/
def HostWord.ofTable (nbits w : Nat) : HostWord :=
  let b := w % 2 ^ nbits
  ⟨BitVec.ofNat 24 b, b / 2 ^ 24⟩

/-- What the decoder reads from an instruction whose bits are `w` in the opcode table's numbering. -/
def decodeTableWord (nbits w : Nat) : Option Instr :=
  match decode (.ofTable nbits w) with
  | .ok i => some i
  | .error _ => none

end Sys2Proof
end

