-- ==== Sys2Proof/Machine/Operands.lean ====
section
/-!
DEFINITION. Operand forms and the arithmetic on words: parameter legality, WFDR fields, phase step and sum, fixed-point
products, staging, and the input bundle each host operation drives.
-/
namespace Sys2Proof.Machine

/-! ### Pseudocode primitives (00_scope.md R14) -/

/-- `trunc_16(v)`: reduction of an integer modulo 2^16. -/
def trunc16 (v : Int) : Word := BitVec.ofInt 16 v

/-- `asr(v, k) = floor(v / 2^k)`. -/
def asr (v : Int) (k : Nat) : Int := v / 2 ^ k

/-! ### Parameters -/

/-- The parameters CONFIGURE accepts (40_bank_interface.md R100): the negation of the ConfigError causes of
60_exceptions.md R200. -/
def legal (c : Config) : Bool :=
  decide (c.N ≠ 0 ∧ c.D ≠ 0 ∧ max 1 (Nat.clog 2 c.N) ≤ c.addrW ∧ c.fracBits ≤ 14 ∧ c.mulShift ≤ 31)

/-- `ONE = 2^FRAC_BITS`, fixed-point +1 (R10). -/
def one (c : Config) : Word := BitVec.ofNat 16 (2 ^ c.fracBits)

/-- `NEG_ONE = (2^16 - ONE) mod 2^16`, fixed-point -1 (R10). -/
def negOne (c : Config) : Word := BitVec.ofNat 16 (2 ^ 16 - (one c).toNat)

/-- The address selects no oscillator (20_memory.md R50, 60_exceptions.md R201). -/
def outOfRange (c : Config) (a : Nat) : Bool := decide (c.N ≤ a)

/-! ### WFDR fields (10_state.md R27) -/

/-- Bit 0, R. -/
def resetField (v : Nibble) : Bool := v.getLsbD 0

/-- Bit 1, DIR. -/
def dirField (v : Nibble) : Bool := v.getLsbD 1

/-- Bits 3:2, WAVE. -/
def waveField (v : Nibble) : WaveCode := v.extractLsb' 2 2

/-- The masked replace of bits, `(old AND NOT m) OR (v AND m)` (R103, R141). -/
def maskedReplace {n : Nat} (old m v : BitVec n) : BitVec n := (old &&& ~~~m) ||| (v &&& m)

/-! ### Phase (41_scheduler.md R125) -/

/-- The 17-bit step: `inc`, doubled for Triangle with no bit lost. -/
def phaseStep (wave : WaveCode) (inc : Word) : BitVec 17 :=
  if wave = Waveform.triangle.code then inc.setWidth 17 <<< 1 else inc.setWidth 17

/-- The exact 18-bit sum. -/
def phaseSum (wave : WaveCode) (inc acc : Word) : BitVec 18 :=
  acc.setWidth 18 + (phaseStep wave inc).setWidth 18

/-- `acc1 = sum[15:0]`. -/
def phaseAcc (sum : BitVec 18) : Word := sum.extractLsb' 0 16

/-! ### The multiplier (43_sine_engine.md R161, R162) -/

/-- `MulSin(c, inc) = trunc_16(asr(s16(c) * u16(inc), MUL_SHIFT))`. -/
def mulSin (cfg : Config) (c inc : Word) : Word :=
  trunc16 (asr (c.toInt * (inc.toNat : Int)) cfg.mulShift)

/-- `MulCos(s, inc) = trunc_16(asr(-(s16(s) * u16(inc)), MUL_SHIFT))`: negated first, then shifted. -/
def mulCos (cfg : Config) (s inc : Word) : Word :=
  trunc16 (asr (-(s.toInt * (inc.toNat : Int))) cfg.mulShift)

/-- The write-back sum `trunc_16(s16(x) + s16(p))`: it wraps (R166). -/
def wrapAdd (x p : Word) : Word := trunc16 (x.toInt + p.toInt)

/-! ### Output decode (44_output_decode.md) -/

/-- Two's-complement negation if the direction is set (R181, R182). -/
def negateIf (dir : Bool) (acc : Word) : Word :=
  (acc ^^^ (if dir then 0xFFFF else 0x0000)) + (if dir then 1 else 0)

/-- `(acc[15] XOR dir, 15'b0)` (R183). -/
def squareLevel (dir : Bool) (acc : Word) : Word :=
  BitVec.ofBool (acc.getLsbD 15 ^^ dir) ++ 0#15

end Sys2Proof.Machine

namespace Sys2Proof

/-- The input bundle sampled in one cycle (30_encoding.md R70; 00_scope.md R15). -/
structure Inputs where
  update : Bool
  writeEnable : Bool
  select : Bool
  mask : Nibble
  dataIn : Word
  address : Nat
deriving DecidableEq, Repr

/-- The bundle of an idle cycle: HC = 0 (R81). Its address is a don't-care; the model uses 0 (log entry 3). -/
def Inputs.idle : Inputs := ⟨false, false, false, 0, 0, 0⟩

/-- The bundle of a NOWRITE cycle (R101); ignored inputs are 0 (R79). -/
def Inputs.nowrite (u : Bool) (a : Nat) : Inputs := ⟨u, false, false, 0, 0, a⟩

/-- The bundle of a WRPINC cycle (R76). -/
def Inputs.wrpinc (u : Bool) (a : Nat) (imm16 : Word) : Inputs := ⟨u, true, false, 0, imm16, a⟩

/-- The bundle of a WRWFDR cycle (R77). -/
def Inputs.wrwfdr (u : Bool) (a : Nat) (m v : Nibble) : Inputs := ⟨u, true, true, m, v.setWidth 16, a⟩

/-- The bundle of an UPDATE cycle with any write group (R73). -/
def Inputs.pulse (w sel : Bool) (m : Nibble) (d : Word) (a : Nat) : Inputs := ⟨true, w, sel, m, d, a⟩

end Sys2Proof
end

