-- ==== Sys2Proof/Machine/State.lean ====
section
/-!
DEFINITION. The state of the block as plain data (10_state.md), the ways a step can stop, and the state after reset.
-/
namespace Sys2Proof.Machine

/-- One OscillatorRegister (10_state.md R20 to R28). -/
structure Osc where
  /-- phase_increment, unsigned (R21). -/
  inc : Word
  /-- phase_accumulator, unsigned, wraps modulo 2^16 (R22). -/
  acc : Word
  /-- waveform code (R23). -/
  wave : WaveCode
  /-- direction (R24). -/
  dir : Bool
  /-- sine_state, signed fixed point (R25). -/
  sin : Word
  /-- cosine_state, signed fixed point (R26). -/
  cos : Word
  /-- pending_value (R27). -/
  pval : Nibble
  /-- pending_mask (R28). -/
  pmask : Nibble
deriving DecidableEq, Repr

/-- One PipelineSlot (10_state.md R34). -/
structure Slot where
  /-- enabled. -/
  en : Bool
  /-- sine_partial. -/
  sp : Word
  /-- cosine_partial. -/
  cp : Word
  /-- target_index, a cursor value. -/
  tgt : Nat
deriving DecidableEq, Repr

/-- The disabled slot, all fields 0 (R34, R164). -/
def Slot.empty : Slot := ⟨false, 0, 0, 0⟩

/-- The scheduler (10_state.md R31): Idle has no cursor. -/
inductive Sched where
  | idle
  | servicing (i : Nat)
deriving DecidableEq, Repr

/-- What `Read(S, a)` answers: a value, or the OutOfRange error in place of one (R104, R202). -/
inductive ReadResult where
  | ok (v : Word)
  | outOfRange
deriving DecidableEq, Repr

/-- The output ports (30_encoding.md R70) as last observed: `data_out` and `read_error` before the edge of the last tick
or at the last READ, and the last tick's outcome record (00_scope.md R15; log entry 6). -/
structure Outputs where
  dataOut : ReadResult
  readError : Bool
  writeError : Bool
deriving DecidableEq, Repr

/-- The MODEL's own record of the combinational signals that pass between the internal operations of one tick: `ovf`
(R125), `rr` (R140), the multiplier outputs (R161, R162) and the request `req` (R120). No tick leaves anything in it
(log entry 7). -/
structure Signals where
  ovf : Bool
  rr : Bool
  sp : Word
  cp : Word
  req : Slot
deriving DecidableEq, Repr

/-- The signals between ticks. -/
def Signals.idle : Signals := ⟨false, false, 0, 0, .empty⟩

/-- The whole machine: `osc`, `pipe` and `sched` are the spec's state (10_state.md), `inp` and `out` its ports (R70);
`cfg`, `sig` and `script` are the model's own (log entries 1, 7 and 3). -/
structure State where
  /-- The parameters (R7 to R11), changed by CONFIGURE alone. -/
  cfg : Config
  /-- The register file, entry `x` at index `x` (R20). -/
  osc : List Osc
  /-- The pipeline, slot 0 first (R34). -/
  pipe : List Slot
  /-- The scheduler (R31). -/
  sched : Sched
  /-- The input ports as last driven (R70). -/
  inp : Inputs
  /-- The output ports as last observed (R70). -/
  out : Outputs
  /-- The signals inside a tick. -/
  sig : Signals
  /-- The host's coming cycles, next first; after its end the host idles. -/
  script : List HostWord
deriving DecidableEq, Repr

/-- Why the machine stops with a fault. -/
inductive Fault where
  /-- ConfigError, code 1 (60_exceptions.md R200): raised by CONFIGURE with parameters R100 rejects. No bank exists, so no
  state follows. Safe: nothing can be proved of a bank that is never built. -/
  | configError
deriving DecidableEq, Repr

/-- Why the model gives a step no meaning. -/
inductive Refusal where
  /-- Raised by `exec` for an instruction that has no meaning yet (none now). Safe. -/
  | notModelled (mnemonic : String)
  /-- Raised by `step` for a cycle word the decoder rejects: no host can drive bit 23 (log entry 9). Safe. -/
  | badWord (e : DecodeError)
  /-- Raised by `step` for an address that the port's ADDR_W bits cannot carry (R9; log entry 10). Safe. -/
  | addressTooWide
deriving DecidableEq, Repr

/-- An oscillator after construction (40_bank_interface.md R100). -/
def Osc.initial (c : Config) : Osc :=
  { inc := 0, acc := 0, wave := 0b00, dir := false, sin := 0, cos := one c, pval := 0, pmask := 0 }

/-- The bank CONFIGURE builds for legal parameters (R100, R220), with the host's script kept beside it. The ports after
construction are the model's choice (log entries 5 and 6): idle inputs, and the outputs they select. -/
def State.construct (c : Config) (script : List HostWord) : State :=
  { cfg := c
    osc := List.replicate c.N (.initial c)
    pipe := List.replicate c.D .empty
    sched := .idle
    inp := .idle
    out := ⟨.ok 0, false, false⟩
    sig := .idle
    script := script }

/-- The machine right after reset: construction (R220) with the default parameters (log entry 2) and nothing scripted
(log entry 4). -/
def State.reset : State := .construct .default []

end Sys2Proof.Machine
end

