-- ==== Sys2Proof/Machine/Flags.lean ====
section
/-!
DEFINITION. The one-bit results. The block has no condition codes (10_state.md R33); these are the overflow bit, the
direction, the reset request, the slot enable and the two error outputs.
-/
namespace Sys2Proof.Machine

/-- `ovf = sum[16]`: the parity of the wraps (41_scheduler.md R125, R126). -/
def phaseOvf (sum : BitVec 18) : Bool := sum.getLsbD 16

/-- `dir1 = dir XOR (ovf AND wave == Triangle)` (R126). -/
def flipDir (wave : WaveCode) (dir ovf : Bool) : Bool :=
  dir ^^ (ovf && decide (wave = Waveform.triangle.code))

/-- `rr = pmask[0] AND pval[0]` (42_deferred_write.md R140). -/
def resetRequested (pm pv : Nibble) : Bool := resetField pm && resetField pv

/-- `dir2 = if pmask[1] == 1 then pval[1] else dir1` (R142). -/
def mergedDir (pm pv : Nibble) (dir1 : Bool) : Bool :=
  if dirField pm then dirField pv else dir1

/-- A service issues a request: the waveform before the merge is Sine and there is no reset request
(43_sine_engine.md R160). -/
def issues (wave : WaveCode) (rr : Bool) : Bool :=
  decide (wave = Waveform.sine.code) && !rr

/-- `write_error`: the tick carries a write whose address is out of range (60_exceptions.md R201). -/
def writeError (c : Config) (inp : Inputs) : Bool := inp.writeEnable && outOfRange c inp.address

/-- `read_error`: the address is out of range (R202). -/
def readError (c : Config) (a : Nat) : Bool := outOfRange c a

end Sys2Proof.Machine
end

