-- ==== Sys2Proof/Machine/Ops.lean ====
section
/-!
DEFINITION. The named operations over oscillator records, the register file, the pipeline and the scheduler, the tick
that R120 composes of them, and the fetch of the host's next cycle. The block takes no exception and returns from none
(60_exceptions.md R206), so there is no operation for either; a rejected write is `hostWrite` with `writeError`.
-/
namespace Sys2Proof.Machine

/-! ### One oscillator record -/

/-- The output decode, exhaustive over the four codes (44_output_decode.md R184). -/
def Osc.output (o : Osc) : Word :=
  match Waveform.ofCode o.wave with
  | .ramp => negateIf o.dir o.acc
  | .square => squareLevel o.dir o.acc
  | .triangle => negateIf o.dir o.acc
  | .sine => o.sin

/-- A write-back's addition to the pair (43_sine_engine.md R166). -/
def Osc.accumulate (o : Osc) (sp cp : Word) : Osc :=
  { o with sin := wrapAdd o.sin sp, cos := wrapAdd o.cos cp }

/-- The exact phase sum of a service, by the waveform before the merge (41_scheduler.md R125). -/
def Osc.sum (o : Osc) : BitVec 18 := phaseSum o.wave o.inc o.acc

/-- The record after the phase advance and the triangle flip (R125, R126). -/
def Osc.advance (o : Osc) : Osc :=
  { o with acc := phaseAcc o.sum, dir := flipDir o.wave o.dir (phaseOvf o.sum) }

/-- The reset request of the record's staged bits (42_deferred_write.md R140). -/
def Osc.resetRequest (o : Osc) : Bool := resetRequested o.pmask o.pval

/-- The reset of phase, sine and cosine, by the direction the record has (R143). -/
def Osc.restart (c : Config) (o : Osc) : Osc :=
  { o with acc := 0, sin := 0, cos := if o.dir then negOne c else one c }

/-- The merge step with the staged bits `pm`, `pv` (R145). -/
def Osc.merge (c : Config) (o : Osc) (pm pv : Nibble) : Osc :=
  let o2 := { o with
    wave := maskedReplace o.wave (waveField pm) (waveField pv)
    dir := mergedDir pm pv o.dir
    pmask := 0 }
  if resetRequested pm pv then o2.restart c else o2

/-- The record after its service (R124): advance, then merge with the bits staged before the tick. -/
def Osc.serviced (c : Config) (o : Osc) : Osc := o.advance.merge c o.pmask o.pval

/-- The pipeline request of a service of oscillator `i` (43_sine_engine.md R160, R164). -/
def Osc.request (c : Config) (o : Osc) (i : Nat) (rr : Bool) : Slot :=
  if issues o.wave rr then ⟨true, mulSin c o.cos o.inc, mulCos c o.sin o.inc, i⟩ else .empty

/-- The staging of WFDR bits (40_bank_interface.md R103). -/
def Osc.stage (o : Osc) (m v : Nibble) : Osc :=
  { o with pval := maskedReplace o.pval m v, pmask := o.pmask ||| m }

/-! ### The phases of a tick (41_scheduler.md R120) -/

/-- The slot that is oldest before the edge, `pipe[D-1]`. -/
def oldest (c : Config) (pipe : List Slot) : Option Slot := pipe[c.D - 1]?

/-- Phase A: the oldest request, if enabled, is added to its target (R166). -/
def writebackPhase (w : Option Slot) (osc : List Osc) : List Osc :=
  match w with
  | some w => if w.en then osc.modify w.tgt (·.accumulate w.sp w.cp) else osc
  | none => osc

/-- The oscillator the tick services: the cursor, or 0 when a pulse finds the scheduler Idle (R121, R123). -/
def serviceCursor (sched : Sched) (update : Bool) : Option Nat :=
  match sched with
  | .servicing i => some i
  | .idle => if update then some 0 else none

/-- The scheduler after a tick that services `cur` (R122). -/
def nextSched (c : Config) (cur : Option Nat) : Sched :=
  match cur with
  | some i => if i + 1 < c.N then .servicing (i + 1) else .idle
  | none => .idle

/-- Phase B on the register file: the service of the cursor's oscillator (R124). -/
def servicePhase (c : Config) (cur : Option Nat) (osc : List Osc) : List Osc :=
  match cur with
  | some i => osc.modify i (·.serviced c)
  | none => osc

/-- Phase B's request, from the register file after phase A; the disabled slot when nothing is serviced or the service
issues nothing (R160, R164). -/
def requestPhase (c : Config) (cur : Option Nat) (osc : List Osc) : Slot :=
  match cur with
  | some i =>
    match osc[i]? with
    | some o => o.request c i o.resetRequest
    | none => .empty
  | none => .empty

/-- Phase C: the host write, dropped whole when its address is out of range (R102, R103, R201). -/
def hostWrite (c : Config) (inp : Inputs) (osc : List Osc) : List Osc :=
  if !inp.writeEnable || outOfRange c inp.address then osc
  else if inp.select then osc.modify inp.address (·.stage inp.mask (wfdrValue inp.dataIn))
  else osc.modify inp.address (fun o => { o with inc := inp.dataIn })

/-- Phase D: every slot moves up one, slot 0 takes the request, and the oldest leaves (R165). -/
def shiftPhase (c : Config) (req : Slot) (pipe : List Slot) : List Slot := (req :: pipe).take c.D

/-- `Read(S, a)` (R104). -/
def readOut (s : State) (a : Nat) : ReadResult :=
  if outOfRange s.cfg a then .outOfRange
  else match s.osc[a]? with
    | some o => .ok o.output
    | none => .outOfRange

/-- `Tick(S, in)` (R120): the outputs are those before the edge (R74, R104) and the tick's `write_error` (R15). -/
def tick (inp : Inputs) (s : State) : State :=
  let cur := serviceCursor s.sched inp.update
  let oscA := writebackPhase (oldest s.cfg s.pipe) s.osc
  { s with
    osc := hostWrite s.cfg inp (servicePhase s.cfg cur oscA)
    pipe := shiftPhase s.cfg (requestPhase s.cfg cur oscA) s.pipe
    sched := nextSched s.cfg cur
    inp := inp
    out := ⟨readOut s inp.address, readError s.cfg inp.address, writeError s.cfg inp⟩
    sig := .idle }

/-- `IDLE*k` (30_encoding.md R81): k idle ticks. -/
def idleTicks : Nat → State → State
  | 0, s => s
  | k + 1, s => idleTicks k (tick .idle s)

/-! ### Parts of a tick, for the internal operations -/

/-- Act on the oscillator under the cursor; nothing happens while the scheduler is Idle (R75; log entry 8). -/
def onCursor (s : State) (f : Nat → Osc → State) : State :=
  match s.sched with
  | .idle => s
  | .servicing i =>
    match s.osc[i]? with
    | some o => f i o
    | none => s

/-- Act on the oscillator the address port selects; nothing happens where it selects none (R50, R75; log entry 8). -/
def onAddressed (s : State) (f : Osc → State) : State :=
  if outOfRange s.cfg s.inp.address then s
  else match s.osc[s.inp.address]? with
    | some o => f o
    | none => s

/-- The state with oscillator `i` replaced. -/
def State.setOsc (s : State) (i : Nat) (o : Osc) : State := { s with osc := s.osc.set i o }

/-- The state with `data_out` showing `v`. -/
def State.present (s : State) (v : Word) : State := { s with out := { s.out with dataOut := .ok v } }

/-- The state with the input ports driven. -/
def State.drive (s : State) (inp : Inputs) : State := { s with inp := inp }

/-! ### Fetch: the host's next cycle (log entry 3) -/

/-- The word of an idle cycle, which the host presents once its script is over: HC = 0 (30_encoding.md R81). -/
def idleWord : HostWord := ⟨0, 0⟩

/-- The word the host presents in the coming cycle. -/
def State.fetch (s : State) : HostWord := s.script.headD idleWord

/-- The state once the coming cycle's word is taken from the script. -/
def State.taken (s : State) : State := { s with script := s.script.tail }

end Sys2Proof.Machine
end

