-- ==== Sys2Proof/Machine/Engine.lean ====
section
/-!
DEFINITION. The meanings of the sine engine and its pipeline (43_sine_engine.md).
-/
namespace Sys2Proof.Machine

/-- ISSUE (R160): this tick's request from the cursor's oscillator and `rr`. -/
def execIssue (s : State) : Host.Outcome State Fault Refusal :=
  .next (onCursor s fun i o => { s with sig := { s.sig with req := o.request s.cfg i s.sig.rr } })

/-- MULSIN (R161): the sine partial, from the cosine state. -/
def execMulsin (s : State) : Host.Outcome State Fault Refusal :=
  .next (onCursor s fun _ o => { s with sig := { s.sig with sp := mulSin s.cfg o.cos o.inc } })

/-- MULCOS (R162): the cosine partial, from the sine state. -/
def execMulcos (s : State) : Host.Outcome State Fault Refusal :=
  .next (onCursor s fun _ o => { s with sig := { s.sig with cp := mulCos s.cfg o.sin o.inc } })

/-- Whether this tick issues no request: nothing is serviced, or the service issues none (R164). -/
def noIssueSelected (s : State) : Bool :=
  match s.sched with
  | .idle => true
  | .servicing i =>
    match s.osc[i]? with
    | some o => !issues o.wave s.sig.rr
    | none => true

/-- NO_ISSUE (R164): the request is the disabled slot. -/
def execNoIssue (s : State) : Host.Outcome State Fault Refusal :=
  .next (if noIssueSelected s then { s with sig := { s.sig with req := .empty } } else s)

/-- SHIFT (R165): the pipeline moves up one slot and takes the request. It ends the tick, so no signal outlives it
(log entry 7). -/
def execShift (s : State) : Host.Outcome State Fault Refusal :=
  .next { s with pipe := shiftPhase s.cfg s.sig.req s.pipe, sig := .idle }

/-- WRITEBACK (R166): the oldest slot's partials, if enabled, are added to its target. -/
def execWriteback (s : State) : Host.Outcome State Fault Refusal :=
  .next { s with osc := writebackPhase (oldest s.cfg s.pipe) s.osc }

end Sys2Proof.Machine
end

