-- ==== Sys2Proof/Machine/HostInterface.lean ====
section
/-!
DEFINITION. The meanings of the host interface operations (40_bank_interface.md).
-/
namespace Sys2Proof.Machine

/-- NOWRITE (R101): a tick whose phase C does nothing. -/
def execNowrite (u : Bool) (a : Nat) (s : State) : Host.Outcome State Fault Refusal :=
  .next (tick (.nowrite u a) s)

/-- WRPINC (R102): a tick whose phase C writes `osc[a].inc`, or drops the write when `a` is out of range (R201). -/
def execWrpinc (u : Bool) (a : Nat) (imm16 : Word) (s : State) : Host.Outcome State Fault Refusal :=
  .next (tick (.wrpinc u a imm16) s)

/-- WRWFDR (R103): a tick whose phase C stages the masked bits in `osc[a]`, or drops the write (R201). -/
def execWrwfdr (u : Bool) (a : Nat) (m v : Nibble) (s : State) : Host.Outcome State Fault Refusal :=
  .next (tick (.wrwfdr u a m v) s)

/-- UPDATE (R105): a tick with the pulse and the write group it carries (R73). -/
def execUpdate (w sel : Bool) (m : Nibble) (d : Word) (a : Nat) (s : State) : Host.Outcome State Fault Refusal :=
  .next (tick (.pulse w sel m d a) s)

/-- READ (R104): the address port selects `data_out` and `read_error`; no edge passes and nothing else changes
(20_memory.md R56; 70_reset_and_hazards.md R231). -/
def execRead (a : Nat) (s : State) : Host.Outcome State Fault Refusal :=
  .next { s with
    inp := { s.inp with address := a }
    out := { s.out with dataOut := readOut s a, readError := readError s.cfg a } }

/-- CONFIGURE (R100): construct the bank, or ConfigError (60_exceptions.md R200). The host's script is not the bank's
and is kept (log entry 14). -/
def execConfigure (count delay addrW fracBits mulShift : Nat) (s : State) :
    Host.Outcome State Fault Refusal :=
  let c : Config := ⟨count, delay, addrW, fracBits, mulShift⟩
  if legal c then .next (.construct c s.script) else .fault .configError

end Sys2Proof.Machine
end

