-- ==== Sys2Proof/Machine/Merge.lean ====
section
/-!
DEFINITION. The meanings of the deferred-write protocol (42_deferred_write.md), on the cursor's oscillator.
-/
namespace Sys2Proof.Machine

/-- RESET_REQUEST (R140): `rr` from the staged bits. -/
def execResetRequest (s : State) : Host.Outcome State Fault Refusal :=
  .next (onCursor s fun _ o => { s with sig := { s.sig with rr := o.resetRequest } })

/-- MERGE_WAVE (R141): the staged waveform bits, bit by bit. -/
def execMergeWave (s : State) : Host.Outcome State Fault Refusal :=
  .next (onCursor s fun i o =>
    s.setOsc i { o with wave := maskedReplace o.wave (waveField o.pmask) (waveField o.pval) })

/-- MERGE_DIR (R142): the staged direction, if its mask bit is set. As `dir1` it takes the direction the record has (DESIGN
CHOICE, log entry 8). -/
def execMergeDir (s : State) : Host.Outcome State Fault Refusal :=
  .next (onCursor s fun i o => s.setOsc i { o with dir := mergedDir o.pmask o.pval o.dir })

/-- OSC_RESET (R143): when `rr` is set, phase 0, sine 0 and cosine plus or minus one by the direction. DESIGN CHOICE (log
entry 8): run as a row of its own it takes the direction the record has as `dir2`, so a staged direction counts only where
MERGE_DIR has run before it. -/
def execOscReset (s : State) : Host.Outcome State Fault Refusal :=
  .next (onCursor s fun i o => if s.sig.rr then s.setOsc i (o.restart s.cfg) else s)

/-- MASK_CLEAR (R144): `pmask` is 0, `pval` stays. -/
def execMaskClear (s : State) : Host.Outcome State Fault Refusal :=
  .next (onCursor s fun i o => s.setOsc i { o with pmask := 0 })

/-- MERGE (R145): the whole merge step, with the `rr` it computes. -/
def execMerge (s : State) : Host.Outcome State Fault Refusal :=
  .next (onCursor s fun i o =>
    { s.setOsc i (o.merge s.cfg o.pmask o.pval) with sig := { s.sig with rr := o.resetRequest } })

end Sys2Proof.Machine
end

