-- ==== Sys2Proof/Machine/OutputDecode.lean ====
section
/-!
DEFINITION. The meanings of the output decoder (44_output_decode.md): what `data_out` shows for the oscillator on the
address port. A row for one waveform has no effect on an oscillator with another (log entry 8).
-/
namespace Sys2Proof.Machine

/-- DECODE (R184): exactly one of the four decodes, by the waveform. -/
def execDecode (s : State) : Host.Outcome State Fault Refusal :=
  .next (onAddressed s fun o => s.present o.output)

/-- DECODE_SINE (R180): the sine state. -/
def execDecodeSine (s : State) : Host.Outcome State Fault Refusal :=
  .next (onAddressed s fun o => if o.wave = Waveform.sine.code then s.present o.sin else s)

/-- DECODE_RAMP (R181): the accumulator, negated if the direction is set. -/
def execDecodeRamp (s : State) : Host.Outcome State Fault Refusal :=
  .next (onAddressed s fun o =>
    if o.wave = Waveform.ramp.code then s.present (negateIf o.dir o.acc) else s)

/-- DECODE_TRIANGLE (R182): the same function as for Ramp. -/
def execDecodeTriangle (s : State) : Host.Outcome State Fault Refusal :=
  .next (onAddressed s fun o =>
    if o.wave = Waveform.triangle.code then s.present (negateIf o.dir o.acc) else s)

/-- DECODE_SQUARE (R183): the accumulator's top bit, inverted if the direction is set, above fifteen zeros. -/
def execDecodeSquare (s : State) : Host.Outcome State Fault Refusal :=
  .next (onAddressed s fun o =>
    if o.wave = Waveform.square.code then s.present (squareLevel o.dir o.acc) else s)

end Sys2Proof.Machine
end

