-- ==== Sys2Proof/Machine/Pseudo.lean ====
section
/-!
DEFINITION. The meanings of the pseudo-instructions: those of their expansions (30_encoding.md R82).
-/
namespace Sys2Proof.Machine

/-- RESETOSC a = `WRWFDR a, 0b0001, 0b0001`. -/
def execResetosc (u : Bool) (a : Nat) (s : State) : Host.Outcome State Fault Refusal :=
  .next (tick (.wrwfdr u a 0b0001 0b0001) s)

/-- SETWAVE a, W = `WRWFDR a, 0b1100, code(W) << 2`. -/
def execSetwave (u : Bool) (a : Nat) (W : Waveform) (s : State) : Host.Outcome State Fault Refusal :=
  .next (tick (.wrwfdr u a 0b1100 (wfdrBits W false false)) s)

/-- SETDIR a, d = `WRWFDR a, 0b0010, d << 1`. -/
def execSetdir (u : Bool) (a : Nat) (d : Bool) (s : State) : Host.Outcome State Fault Refusal :=
  .next (tick (.wrwfdr u a 0b0010 (wfdrBits .ramp d false)) s)

/-- SETWDR a, W, d, r = `WRWFDR a, 0b1111, (code(W) << 2) OR (d << 1) OR r`. -/
def execSetwdr (u : Bool) (a : Nat) (W : Waveform) (d r : Bool) (s : State) :
    Host.Outcome State Fault Refusal :=
  .next (tick (.wrwfdr u a 0b1111 (wfdrBits W d r)) s)

/-- SWEEP = `UPDATE`, then `IDLE*(N-1)`: N ticks (the address of each is a don't-care, log entry 12). -/
def execSweep (s : State) : Host.Outcome State Fault Refusal :=
  .next (idleTicks (s.cfg.N - 1) (tick (.pulse false false 0 0 0) s))

/-- WAIT k = `IDLE*k`. -/
def execWait (k : Nat) (s : State) : Host.Outcome State Fault Refusal :=
  .next (idleTicks k s)

end Sys2Proof.Machine
end

