-- ==== Sys2Proof/Machine/Scheduler.lean ====
section
/-!
DEFINITION. The meanings of the tick, the sweep state machine and the phase accumulator (41_scheduler.md). Each internal
operation acts on the cursor's oscillator and has no effect where its state condition does not hold (30_encoding.md R75;
log entry 8).
-/
namespace Sys2Proof.Machine

/-- TICK (R120): one clock edge with the values on the input ports. -/
def execTick (s : State) : Host.Outcome State Fault Refusal :=
  .next (tick s.inp s)

/-- SWEEP_START (R121): from Idle with the pulse to Servicing(0). -/
def execSweepStart (s : State) : Host.Outcome State Fault Refusal :=
  match s.sched, s.inp.update with
  | .idle, true => .next { s with sched := .servicing 0 }
  | _, _ => .next s

/-- SWEEP_ADVANCE (R122): from Servicing(i) to Servicing(i+1), or to Idle after the last oscillator. -/
def execSweepAdvance (s : State) : Host.Outcome State Fault Refusal :=
  match s.sched with
  | .servicing i => .next { s with sched := nextSched s.cfg (some i) }
  | .idle => .next s

/-- RETRIGGER_IGNORED (R123): a pulse during a sweep has no effect and is not remembered. -/
def execRetriggerIgnored (s : State) : Host.Outcome State Fault Refusal :=
  .next s

/-- SERVICE (R124): the update of the cursor's oscillator, with its signals and its request. -/
def execService (s : State) : Host.Outcome State Fault Refusal :=
  .next (onCursor s fun i o =>
    { s.setOsc i (o.serviced s.cfg) with
      sig := { s.sig with
        ovf := phaseOvf o.sum
        rr := o.resetRequest
        req := o.request s.cfg i o.resetRequest } })

/-- PHASE_ADVANCE (R125): the accumulator takes the sum's low 16 bits; `ovf` is its bit 16. -/
def execPhaseAdvance (s : State) : Host.Outcome State Fault Refusal :=
  .next (onCursor s fun i o =>
    { s.setOsc i { o with acc := phaseAcc o.sum } with sig := { s.sig with ovf := phaseOvf o.sum } })

/-- TRIANGLE_FLIP (R126): the direction flips on Triangle when `ovf` is set. -/
def execTriangleFlip (s : State) : Host.Outcome State Fault Refusal :=
  .next (onCursor s fun i o => s.setOsc i { o with dir := flipDir o.wave o.dir s.sig.ovf })

end Sys2Proof.Machine
end

