-- ==== Sys2Proof/Machine/Dispatch.lean ====
section
/-!
DEFINITION. The dispatch of every instruction to its meaning.
-/
namespace Sys2Proof.Machine

def exec (i : Instr) (s : State) : Host.Outcome State Fault Refusal :=
  match i with
  | .nowrite u a => Sys2Proof.Machine.execNowrite u a s
  | .wrpinc u a imm16 => Sys2Proof.Machine.execWrpinc u a imm16 s
  | .wrwfdr u a m v => Sys2Proof.Machine.execWrwfdr u a m v s
  | .update w sel m d a => Sys2Proof.Machine.execUpdate w sel m d a s
  | .read a => Sys2Proof.Machine.execRead a s
  | .configure count delay addrW fracBits mulShift => Sys2Proof.Machine.execConfigure count delay addrW fracBits mulShift s
  | .resetosc u a => Sys2Proof.Machine.execResetosc u a s
  | .setwave u a W => Sys2Proof.Machine.execSetwave u a W s
  | .setdir u a d => Sys2Proof.Machine.execSetdir u a d s
  | .setwdr u a W d r => Sys2Proof.Machine.execSetwdr u a W d r s
  | .sweep => Sys2Proof.Machine.execSweep s
  | .wait k => Sys2Proof.Machine.execWait k s
  | .tick => Sys2Proof.Machine.execTick s
  | .sweepStart => Sys2Proof.Machine.execSweepStart s
  | .sweepAdvance => Sys2Proof.Machine.execSweepAdvance s
  | .retriggerIgnored => Sys2Proof.Machine.execRetriggerIgnored s
  | .service => Sys2Proof.Machine.execService s
  | .phaseAdvance => Sys2Proof.Machine.execPhaseAdvance s
  | .triangleFlip => Sys2Proof.Machine.execTriangleFlip s
  | .resetRequest => Sys2Proof.Machine.execResetRequest s
  | .mergeWave => Sys2Proof.Machine.execMergeWave s
  | .mergeDir => Sys2Proof.Machine.execMergeDir s
  | .oscReset => Sys2Proof.Machine.execOscReset s
  | .maskClear => Sys2Proof.Machine.execMaskClear s
  | .merge => Sys2Proof.Machine.execMerge s
  | .issue => Sys2Proof.Machine.execIssue s
  | .mulsin => Sys2Proof.Machine.execMulsin s
  | .mulcos => Sys2Proof.Machine.execMulcos s
  | .noIssue => Sys2Proof.Machine.execNoIssue s
  | .shift => Sys2Proof.Machine.execShift s
  | .writeback => Sys2Proof.Machine.execWriteback s
  | .decode => Sys2Proof.Machine.execDecode s
  | .decodeSine => Sys2Proof.Machine.execDecodeSine s
  | .decodeRamp => Sys2Proof.Machine.execDecodeRamp s
  | .decodeTriangle => Sys2Proof.Machine.execDecodeTriangle s
  | .decodeSquare => Sys2Proof.Machine.execDecodeSquare s

end Sys2Proof.Machine
end

