-- ==== Sys2Proof/Machine/Step.lean ====
section
/-!
DEFINITION. One step: the host's next cycle word is taken, decoded and run.
-/
namespace Sys2Proof.Machine

/-- One step of the machine: the word the host presents in the coming cycle is taken from the script (log entry 3),
decoded, and run as one tick. The block fetches nothing itself (20_memory.md R62). -/
def step (s : State) : Host.Outcome State Fault Refusal :=
  match decode s.fetch with
  | .error e => .refused (.badWord e)
  | .ok i => if i.wf s.cfg then exec i s.taken else .refused .addressTooWide

/-- The state whose next cycle presents the word `w` of the opcode table's numbering: the first word of the host's
script is that word (log entry 4). -/
def State.withFetchWord (s : State) (nbits w : Nat) : State :=
  { s with script := .ofTable nbits w :: s.script.tail }

end Sys2Proof.Machine
end

