-- ==== Sys2Proof/Machine/Assembler.lean ====
section
/-!
DEFINITION. The host-command syntax (30_encoding.md R81) and the expansion of the pseudo-instructions to cycle words
(R82), from a line of text to the words the host presents, one word a tick.
-/
namespace Sys2Proof.Machine

/-- An operation of a line, its operands still natural numbers (R81, R82). -/
inductive AsmOp where
  | update
  | wrpinc (addr imm16 : Nat)
  | wrwfdr (addr mask4 val4 : Nat)
  | read (addr : Nat)
  | resetosc (a : Nat)
  | setwave (a : Nat) (W : Waveform)
  | setdir (a d : Nat)
  | setwdr (a : Nat) (W : Waveform) (d r : Nat)
deriving DecidableEq, Repr

/-- A line: operations of one tick, or a line that stands for several ticks (R81, R82). -/
inductive AsmLine where
  | ops (l : List AsmOp)
  | idle (k : Nat)
  | sweep
  | wait (k : Nat)
deriving DecidableEq, Repr

/-- Why the assembler refuses a line (R81). -/
inductive AsmError where
  /-- The text is no line of the grammar. -/
  | badText
  /-- An `imm16`, `mask4`, `val4` or bit operand is wider than its field. -/
  | tooWide
  /-- Two write operations in one line. -/
  | twoWrites
  /-- Two UPDATEs in one line. -/
  | twoUpdates
  /-- A READ whose address is not that of the line's other operations: there is one address port. -/
  | addressesDiffer
deriving DecidableEq, Repr

/-! ### From a line to words -/

/-- A one-bit operand. -/
def asmBit (n : Nat) : Except AsmError Bool :=
  if n < 2 then .ok (n == 1) else .error .tooWide

/-- The address a READ of the line puts on the port. -/
def AsmOp.readAddress : AsmOp → Option Nat
  | .read a => some a
  | _ => none

/-- The write operation of the block that a write of the line stands for, with the line's `update` bit. -/
def AsmOp.write (u : Bool) : AsmOp → Option (Except AsmError Instr)
  | .wrpinc a i => some (if i < 2 ^ 16 then .ok (.wrpinc u a (.ofNat 16 i)) else .error .tooWide)
  | .wrwfdr a m v =>
    some (if m < 2 ^ 4 ∧ v < 2 ^ 4 then .ok (.wrwfdr u a (.ofNat 4 m) (.ofNat 4 v)) else .error .tooWide)
  | .resetosc a => some (.ok (.resetosc u a))
  | .setwave a W => some (.ok (.setwave u a W))
  | .setdir a d => some ((asmBit d).map (.setdir u a))
  | .setwdr a W d r => some ((asmBit d).bind fun d => (asmBit r).map (.setwdr u a W d))
  | .update | .read _ => none

/-- The operation of the block that one tick's line stands for. An address nothing names is a don't-care, 0 here. -/
def lineInstr (l : List AsmOp) : Except AsmError Instr :=
  let u := l.contains .update
  let reads := l.filterMap AsmOp.readAddress
  if 1 < l.count .update then .error .twoUpdates
  else match l.filterMap (·.write u) with
    | [] =>
      let a := reads.headD 0
      if reads.all (· == a) then
        .ok (if u then .update false false 0 0 a else .nowrite false a)
      else .error .addressesDiffer
    | [w] => w.bind fun i =>
      if reads.all (fun a => i.portAddress == some a) then .ok i else .error .addressesDiffer
    | _ => .error .twoWrites

/-- The words of a line on a block of `N` oscillators. -/
def AsmLine.words (N : Nat) : AsmLine → Except AsmError (List HostWord)
  | .ops l => (lineInstr l).map fun i => (encode i).toList
  | .idle k | .wait k => .ok (List.replicate k idleWord)
  | .sweep => .ok ((encode (.update false false 0 0 0)).toList ++ List.replicate (N - 1) idleWord)

/-! ### From text to a line -/

/-- A token of a line. -/
inductive AsmToken where
  | word (w : List Char)
  | comma
  | bar
  | colon
  | star
deriving DecidableEq, Repr

/-- The token a reversed run of word characters stands for, before `rest`. -/
def flushWord (run : List Char) (rest : List AsmToken) : List AsmToken :=
  if run = [] then rest else .word run.reverse :: rest

/-- The tokens of a line; a `;` starts a comment. `run` is the word being read, reversed. DESIGN CHOICE (log entry 17):
R81 says nothing of blanks; spaces and tabs end a word and may stand between any two tokens, inside `IDLE*` too. Safe. -/
def tokens (run : List Char) : List Char → List AsmToken
  | [] => flushWord run []
  | c :: cs =>
    if c = ';' then flushWord run []
    else if c = ' ' ∨ c = '\t' then flushWord run (tokens [] cs)
    else if c = ',' then flushWord run (.comma :: tokens [] cs)
    else if c = '|' then flushWord run (.bar :: tokens [] cs)
    else if c = ':' then flushWord run (.colon :: tokens [] cs)
    else if c = '*' then flushWord run (.star :: tokens [] cs)
    else tokens (c :: run) cs

/-- The value of a digit below `base`. -/
def digitValue (base : Nat) (c : Char) : Option Nat :=
  let n := c.toNat
  let v := if 48 ≤ n ∧ n ≤ 57 then n - 48 else if 65 ≤ n ∧ n ≤ 70 then n - 55
    else if 97 ≤ n ∧ n ≤ 102 then n - 87 else base
  if v < base then some v else none

/-- The number a digit string stands for, after `acc`. -/
def digits (base acc : Nat) : List Char → Option Nat
  | [] => some acc
  | c :: cs => (digitValue base c).bind fun v => digits base (acc * base + v) cs

/-- A number: decimal, `0x` hexadecimal or `0b` binary (R81). -/
def number : List Char → Option Nat
  | [] => none
  | ['0', 'x'] | ['0', 'b'] => none
  | '0' :: 'x' :: cs => digits 16 0 cs
  | '0' :: 'b' :: cs => digits 2 0 cs
  | cs => digits 10 0 cs

/-- A waveform name (R82). -/
def waveformName (w : List Char) : Option Waveform :=
  if w = "RAMP".toList then some .ramp else if w = "SQUARE".toList then some .square
  else if w = "TRIANGLE".toList then some .triangle else if w = "SINE".toList then some .sine else none

/-- One operation of a line. -/
def parseOp : List AsmToken → Option AsmOp
  | [.word o] => if o = "UPDATE".toList then some .update else none
  | [.word o, .word a] =>
    if o = "READ".toList then (number a).map .read
    else if o = "RESETOSC".toList then (number a).map .resetosc else none
  | [.word o, .word a, .comma, .word b] =>
    (number a).bind fun a =>
      if o = "WRPINC".toList then (number b).map (.wrpinc a)
      else if o = "SETWAVE".toList then (waveformName b).map (.setwave a)
      else if o = "SETDIR".toList then (number b).map (.setdir a) else none
  | [.word o, .word a, .comma, .word b, .comma, .word c] =>
    if o = "WRWFDR".toList then
      (number a).bind fun a => (number b).bind fun b => (number c).map (.wrwfdr a b)
    else none
  | [.word o, .word a, .comma, .word W, .comma, .word d, .comma, .word r] =>
    if o = "SETWDR".toList then
      (number a).bind fun a => (waveformName W).bind fun W =>
        (number d).bind fun d => (number r).map (.setwdr a W d)
    else none
  | _ => none

/-- The body of a line, after its label. DESIGN CHOICE (log entry 17): R81 uses `repeat` in no production and R82 gives
SWEEP and WAIT no place in `line`; each is a whole body here, so a label and a comment may stand by it and `|` may not. Safe. -/
def parseBody (ts : List AsmToken) : Option AsmLine :=
  match ts with
  | [.word o] =>
    if o = "IDLE".toList then some (.idle 1) else if o = "SWEEP".toList then some .sweep
    else (parseOp ts).map fun op => .ops [op]
  | [.word o, .star, .word k] => if o = "IDLE".toList then (number k).map .idle else none
  | [.word o, .word k] =>
    if o = "WAIT".toList then (number k).map .wait else (parseOp ts).map fun op => .ops [op]
  | _ => ((ts.splitOn .bar).mapM parseOp).map .ops

/-- A line of text. R81 gives no production for `label`. DESIGN CHOICE (log entry 17): a label is any run of characters
free of blanks and of `,`, `|`, `:`, `*` and `;`, an operation's name or a number included. It carries no meaning, since
nothing jumps (R32). Safe. -/
def parseLine (text : List Char) : Except AsmError AsmLine :=
  let line := match tokens [] text with
    | .word _ :: .colon :: ts => parseBody ts
    | ts => parseBody ts
  match line with
  | some l => .ok l
  | none => .error .badText

/-- The words a line of text stands for on a block of `N` oscillators. -/
def assembleLine (N : Nat) (text : List Char) : Except AsmError (List HostWord) :=
  (parseLine text).bind (·.words N)

end Sys2Proof.Machine
end

