-- ==== Sys2Proof/Safety.lean ====
section
/-!
DEFINITION. The terms claims are stated in: a well-shaped state, a script the ports can carry, runs of many steps, and
what a step services.
-/
namespace Sys2Proof

/-- A word the ports can carry: no padding bit, and an address of ADDR_W bits. -/
def HostWord.fits (c : Config) (w : HostWord) : Bool :=
  !w.hc.getLsbD 23 && decide (w.address < 2 ^ c.addrW)

/-- The input bundle of a cycle word (R71), ignored bits included. -/
def HostWord.inputs (w : HostWord) : Inputs :=
  ⟨w.updateBit, w.writeBit, w.selectBit, w.maskField, w.dataField, w.address⟩

end Sys2Proof

namespace Sys2Proof.Machine

/-! ### Well-shaped states -/

/-- The cursor is an index of an oscillator (10_state.md R31). -/
def Sched.inRange (c : Config) : Sched → Bool
  | .idle => true
  | .servicing i => decide (i < c.N)

/-- A slot's target is an oscillator (R34), and a slot with no request holds zeros (R34, R164; 93 I10). -/
def Slot.wf (c : Config) (w : Slot) : Bool :=
  decide (w.tgt < c.N) && (w.en || decide (w = .empty))

/-- What every state of a constructed bank keeps: legal parameters (R100), N oscillators (R20), D slots (R34), every
slot and the request well formed, and the cursor in range (R31). -/
abbrev State.Inv (s : State) : Prop :=
  legal s.cfg = true ∧ s.osc.length = s.cfg.N ∧ s.pipe.length = s.cfg.D ∧
    (s.pipe.all (Slot.wf s.cfg)) = true ∧ s.sig.req.wf s.cfg = true ∧ s.sched.inRange s.cfg = true

/-- Every word of the host's script can be carried by the ports. -/
abbrev State.ScriptFits (s : State) : Prop := (s.script.all (HostWord.fits s.cfg)) = true

/-! ### Runs -/

/-- `k` steps, stopping at the first fault or refusal. -/
def steps : Nat → State → Host.Outcome State Fault Refusal
  | 0, s => .next s
  | k + 1, s =>
    match step s with
    | .next t => steps k t
    | .fault r => .fault r
    | .refused r => .refused r

/-- Instructions run one after the other, stopping at the first fault or refusal. -/
def execAll : List Instr → State → Host.Outcome State Fault Refusal
  | [], s => .next s
  | i :: l, s =>
    match exec i s with
    | .next t => execAll l t
    | .fault r => .fault r
    | .refused r => .refused r

/-! ### What the coming step does -/

/-- A tick of `s` with the inputs `inp` services oscillator `x`: it is under the cursor, or the scheduler is Idle, the
pulse arrives and `x` is 0 (R121 to R123). -/
abbrev Services (s : State) (inp : Inputs) (x : Nat) : Prop :=
  s.sched = .servicing x ∨ (s.sched = .idle ∧ inp.update = true ∧ x = 0)

/-- The enabled request that the coming tick writes back to oscillator `x`, if any (43_sine_engine.md R166). -/
def State.landing (s : State) (x : Nat) : Option Slot :=
  match s.pipe[s.cfg.D - 1]? with
  | some w => if w.en && decide (w.tgt = x) then some w else none
  | none => none

/-- The sine state of `x` once the coming tick's write-back has landed: the service of that tick reads it (R120). -/
def State.sinAfterLanding (s : State) (x : Nat) (o : Osc) : Word :=
  match s.landing x with
  | some w => o.sin + w.sp
  | none => o.sin

/-- The cosine state of `x` once the coming tick's write-back has landed (R120). -/
def State.cosAfterLanding (s : State) (x : Nat) (o : Osc) : Word :=
  match s.landing x with
  | some w => o.cos + w.cp
  | none => o.cos

/-- The oscillator the coming step services, if any (41_scheduler.md R121 to R123). -/
def State.services (s : State) : Option Nat := serviceCursor s.sched s.fetch.updateBit

/-- The coming step carries an accepted write to oscillator `x`. -/
def State.writes (s : State) (x : Nat) : Bool :=
  s.fetch.writeBit && decide (s.fetch.address = x)

/-- How many of the coming `k` steps service oscillator `x`. -/
def serviceCount (x : Nat) : Nat → State → Nat
  | 0, _ => 0
  | k + 1, s =>
    (if s.services = some x then 1 else 0) +
      match step s with
      | .next t => serviceCount x k t
      | .fault _ | .refused _ => 0

/-- The codes of the spec's errors: ConfigError 1, OutOfRangeError 2, none 0 (60_exceptions.md R212). -/
def Fault.code : Fault → Nat
  | .configError => 1

/-- The code a read answers with (R212). -/
def ReadResult.code : ReadResult → Nat
  | .ok _ => 0
  | .outOfRange => 2

/-- The code a tick's outcome record names (R201, R212). -/
def Outputs.code (o : Outputs) : Nat := if o.writeError then 2 else 0

end Sys2Proof.Machine
end

