-- ==== Sys2Proof/Certificates/Slice0/Obligations.lean ====
section
/-!
DEFINITION. The statements for the provers. Rules are those of spec/; a statement that rests on a choice of the model says
so and names the log entry.
-/
open Sys2Proof Sys2Proof.Machine

/-! ### Encoding and the step -/

/-- When the word of the coming cycle decodes to a well-formed instruction, the step takes that word from the script and
runs the instruction (the script is the model's, log entry 3). -/
def Obligations.StepRunsDecodedInstruction : Prop :=
  ∀ (s : State) (i : Instr), decode s.fetch = .ok i → i.wf s.cfg = true →
    step s = exec i { s with script := s.script.tail }

/-- Seven words of the programs of 95_test_vectors.md (0x000000 among them), and 0x360006 and 0x310001, which the model
packs by 30_encoding.md R71 from lines of R81 and R82, decode to instructions. That a word which R72 makes a WRWFDR is
named by the pseudo-instruction it fits, and a word with the pulse and a write by its write, is the model's choice (log
entry 11). -/
def Obligations.SpecWordsDecode : Prop :=
  decode ⟨0x000000, 2⟩ = .ok (.nowrite false 2) ∧
  decode ⟨0x204000, 0⟩ = .ok (.wrpinc false 0 0x4000) ∧
  decode ⟨0x601111, 3⟩ = .ok (.wrpinc true 3 0x1111) ∧
  decode ⟨0x360006, 1⟩ = .ok (.wrwfdr false 1 0b0110 0b0110) ∧
  decode ⟨0x400000, 0⟩ = .ok (.update false false 0 0 0) ∧
  decode ⟨0x310001, 1⟩ = .ok (.resetosc false 1) ∧
  decode ⟨0x7C0004, 1⟩ = .ok (.setwave true 1 .square) ∧
  decode ⟨0x320000, 0⟩ = .ok (.setdir false 0 false) ∧
  decode ⟨0x3F000D, 0⟩ = .ok (.setwdr false 0 .sine false true)

/-- Decode inverts encode, with every operand at every value, for each operation one cycle word carries. A WRWFDR word
that fits a pseudo-instruction of R82, a NOWRITE with the pulse and an UPDATE with a write are other spellings of one of
these words (log entry 11): `EncodedWordKeepsItsEffect` covers them. -/
def Obligations.DecodeInvertsEncode : Prop :=
  (∀ a, (encode (.nowrite false a)).map decode = some (.ok (.nowrite false a))) ∧
  (∀ u a d, (encode (.wrpinc u a d)).map decode = some (.ok (.wrpinc u a d))) ∧
  (∀ u a m v, ¬ (m = 0b0001 ∧ v = 0b0001) → ¬ (m = 0b1100 ∧ v.getLsbD 0 = false ∧ v.getLsbD 1 = false) →
    ¬ (m = 0b0010 ∧ v.getLsbD 0 = false ∧ v.getLsbD 2 = false ∧ v.getLsbD 3 = false) → m ≠ 0b1111 →
    (encode (.wrwfdr u a m v)).map decode = some (.ok (.wrwfdr u a m v))) ∧
  (∀ sel m d a, (encode (.update false sel m d a)).map decode = some (.ok (.update false sel m d a))) ∧
  (∀ u a, (encode (.resetosc u a)).map decode = some (.ok (.resetosc u a))) ∧
  (∀ u a W, (encode (.setwave u a W)).map decode = some (.ok (.setwave u a W))) ∧
  (∀ u a d, (encode (.setdir u a d)).map decode = some (.ok (.setdir u a d))) ∧
  (∀ u a W d r, (encode (.setwdr u a W d r)).map decode = some (.ok (.setwdr u a W d r)))

/-- Whatever spelling the decoder gives the word of an operation (log entry 11), running it has the operation's effect;
only the recorded input ports may differ, in bits the operation ignores (30_encoding.md R79). -/
def Obligations.EncodedWordKeepsItsEffect : Prop :=
  ∀ (i : Instr) (w : HostWord), encode i = some w →
    ∃ j, decode w = .ok j ∧ ∀ s, ∃ t t', exec i s = .next t ∧ exec j s = .next t' ∧
      t' = { t with inp := t'.inp }

/-- Every 23-bit HC decodes, and the decoded instruction's tick is the tick of R120 on the bits of the word: bit 22 the
pulse, bits 21:20 the write group (30_encoding.md section 4). -/
def Obligations.EveryWordRunsThePortTick : Prop :=
  ∀ (w : HostWord), w.hc.getLsbD 23 = false →
    ∃ j, decode w = .ok j ∧ ∀ s, ∃ t t', exec j s = .next t ∧
      exec .tick { s with inp := w.inputs } = .next t' ∧ t = { t' with inp := t.inp }

/-- The ignored inputs have no effect on a tick (30_encoding.md section 4): `select`, `mask` and `data_in` without a
write, `mask` with `select = 0`, `data_in[15:4]` with `select = 1`. -/
def Obligations.IgnoredInputsHaveNoEffect : Prop :=
  ∀ (s : State) (p q : Inputs), p.update = q.update → p.writeEnable = q.writeEnable → p.address = q.address →
    (p.writeEnable = true → p.select = q.select) →
    (p.writeEnable = true → p.select = true → p.mask = q.mask ∧
      ∀ k < 4, p.dataIn.getLsbD k = q.dataIn.getLsbD k) →
    (p.writeEnable = true → p.select = false → p.dataIn = q.dataIn) →
    ∃ t t', exec .tick { s with inp := p } = .next t ∧ exec .tick { s with inp := q } = .next t' ∧
      t' = { t with inp := q }

/-! ### Construction -/

/-- CONFIGURE with legal parameters builds the bank of R100, and keeps the host's script (log entry 14). -/
def Obligations.ConfigureConstructsTheBank : Prop :=
  ∀ (count delay addrW fracBits mulShift : Nat) (s : State),
    count ≠ 0 → delay ≠ 0 → max 1 (Nat.clog 2 count) ≤ addrW → fracBits ≤ 14 → mulShift ≤ 31 →
    ∃ t, exec (.configure count delay addrW fracBits mulShift) s = .next t ∧
      t.cfg = ⟨count, delay, addrW, fracBits, mulShift⟩ ∧
      t.osc.length = count ∧
      (∀ x, x < count → t.osc[x]? = some ⟨0, 0, 0b00, false, 0, BitVec.ofNat 16 (2 ^ fracBits), 0, 0⟩) ∧
      t.pipe.length = delay ∧
      (∀ k, k < delay → t.pipe[k]? = some ⟨false, 0, 0, 0⟩) ∧
      t.sched = .idle ∧ t.script = s.script

/-- CONFIGURE raises ConfigError, code 1, for exactly the causes of R200, and then there is no next state. -/
def Obligations.ConfigErrorExactlyOnBadParameters : Prop :=
  (∀ (count delay addrW fracBits mulShift : Nat) (s : State),
    exec (.configure count delay addrW fracBits mulShift) s = .fault .configError ↔
      (count = 0 ∨ delay = 0 ∨ addrW < max 1 (Nat.clog 2 count) ∨ 14 < fracBits ∨ 31 < mulShift)) ∧
  Fault.configError.code = 1

/-- The reset state is well shaped and its script can be presented. Its N and D are the model's choice (log entry 2). -/
def Obligations.ResetIsWellShaped : Prop :=
  State.reset.Inv ∧ State.reset.ScriptFits

/-! ### Host interface operations -/

/-- NOWRITE: the tick runs, phase C writes nothing and there is no write error (R101). -/
def Obligations.NowriteWritesNothing : Prop :=
  ∀ (s : State) (u : Bool) (a : Nat), ∃ t, exec (.nowrite u a) s = .next t ∧ t.out.writeError = false ∧
    t.cfg = s.cfg ∧ t.script = s.script ∧
    ∀ x o, s.osc[x]? = some o → ∃ o', t.osc[x]? = some o' ∧ o'.inc = o.inc ∧ o'.pval = o.pval ∧
      (¬ Services s ⟨u, false, false, 0, 0, a⟩ x →
        o'.pmask = o.pmask ∧ o'.wave = o.wave ∧ o'.dir = o.dir ∧ o'.acc = o.acc)

/-- WRPINC: the tick is that of NOWRITE, and after it `osc[a].inc` is the value written; so the service of the same tick
used the old one. Out of range, the write is dropped and `write_error` is 1. Nothing else differs (R102). -/
def Obligations.WrpincWritesTheIncrement : Prop :=
  ∀ (s : State) (u : Bool) (a : Nat) (imm16 : Word), ∃ t n,
    exec (.wrpinc u a imm16) s = .next t ∧ exec (.nowrite u a) s = .next n ∧
    (a < s.cfg.N → t.osc[a]? = n.osc[a]?.map (fun o => { o with inc := imm16 })) ∧
    (∀ x, x ≠ a ∨ s.cfg.N ≤ a → t.osc[x]? = n.osc[x]?) ∧
    t = { n with osc := t.osc, inp := t.inp, out := { n.out with writeError := decide (s.cfg.N ≤ a) } }

/-- WRWFDR: the tick is that of NOWRITE, and after it each masked bit of `osc[a].pval` is the value's and each masked bit
of `osc[a].pmask` is set; the other bits stay. Out of range, the write is dropped and `write_error` is 1. Nothing else
differs (R103; the masked replace is the spec's decision D9). -/
def Obligations.WrwfdrStagesTheMaskedBits : Prop :=
  ∀ (s : State) (u : Bool) (a : Nat) (m v : Nibble), ∃ t n,
    exec (.wrwfdr u a m v) s = .next t ∧ exec (.nowrite u a) s = .next n ∧
    (a < s.cfg.N → ∀ o, n.osc[a]? = some o → ∃ o', t.osc[a]? = some o' ∧
      (∀ k < 4, o'.pval.getLsbD k = (if m.getLsbD k then v.getLsbD k else o.pval.getLsbD k) ∧
        o'.pmask.getLsbD k = (o.pmask.getLsbD k || m.getLsbD k)) ∧
      o' = { o with pval := o'.pval, pmask := o'.pmask }) ∧
    (∀ x, x ≠ a ∨ s.cfg.N ≤ a → t.osc[x]? = n.osc[x]?) ∧
    t = { n with osc := t.osc, inp := t.inp, out := { n.out with writeError := decide (s.cfg.N ≤ a) } }

/-- An out-of-range write by any operation that writes is dropped whole: the tick is that of the same cycle without the
write, and `write_error` is 1 (R201; spec decision D13). -/
def Obligations.OutOfRangeWriteIsDropped : Prop :=
  ∀ (s : State) (u sel d r : Bool) (a : Nat) (m v : Nibble) (imm16 : Word) (W : Waveform), s.cfg.N ≤ a →
    ∀ i ∈ [Instr.wrpinc u a imm16, .wrwfdr u a m v, .resetosc u a, .setwave u a W, .setdir u a d,
        .setwdr u a W d r] ++ (if u then [.update true sel m imm16 a] else []),
      ∃ t n, exec i s = .next t ∧ exec (.nowrite u a) s = .next n ∧
        t = { n with inp := t.inp, out := { n.out with writeError := true } } ∧ t.out.code = 2

/-- Each pseudo-instruction is its expansion (R82; the address of SWEEP's and WAIT's ticks is a don't-care and is 0 here,
log entry 12). -/
def Obligations.PseudoInstructionsAreTheirExpansions : Prop :=
  ∀ (s : State) (u : Bool) (a : Nat) (W : Waveform) (d r : Bool) (k : Nat),
    let dd : Nibble := if d then 1 else 0
    let rr : Nibble := if r then 1 else 0
    (∃ t, exec (.resetosc u a) s = .next t ∧ exec (.wrwfdr u a 0b0001 0b0001) s = .next t) ∧
    (∃ t, exec (.setwave u a W) s = .next t ∧
      exec (.wrwfdr u a 0b1100 (W.code.setWidth 4 <<< 2)) s = .next t) ∧
    (∃ t, exec (.setdir u a d) s = .next t ∧ exec (.wrwfdr u a 0b0010 (dd <<< 1)) s = .next t) ∧
    (∃ t, exec (.setwdr u a W d r) s = .next t ∧
      exec (.wrwfdr u a 0b1111 (W.code.setWidth 4 <<< 2 ||| dd <<< 1 ||| rr)) s = .next t) ∧
    (∃ t, exec .sweep s = .next t ∧
      execAll (.update false false 0 0 0 :: List.replicate (s.cfg.N - 1) (.nowrite false 0)) s = .next t) ∧
    (∃ t, exec (.wait k) s = .next t ∧ execAll (List.replicate k (.nowrite false 0)) s = .next t)

/-- READ: `data_out` is the decode of the addressed oscillator and `read_error` is 0; out of range, `read_error` is 1 and
the answer is the OutOfRange error (code 2) and no value. But for the ports nothing changes (R104, R202). -/
def Obligations.ReadShowsTheDecodedOutput : Prop :=
  ∀ (s : State) (a : Nat),
    (∀ o, a < s.cfg.N → s.osc[a]? = some o →
      exec (.read a) s = .next { s with
        inp := { s.inp with address := a }
        out := { s.out with
          readError := false
          dataOut := .ok (
            if o.wave = 0b00 ∨ o.wave = 0b10 then
              (if o.dir then BitVec.ofNat 16 (2 ^ 16 - o.acc.toNat) else o.acc)
            else if o.wave = 0b01 then (if o.acc.getLsbD 15 ≠ o.dir then 0x8000 else 0x0000)
            else o.sin) } }) ∧
    (s.cfg.N ≤ a →
      exec (.read a) s = .next { s with
        inp := { s.inp with address := a }
        out := { s.out with readError := true, dataOut := .outOfRange } } ∧
      ReadResult.outOfRange.code = 2)

/-- UPDATE from Idle services oscillator 0 in its own tick and starts the sweep; its write group runs as in a tick
without the pulse (R105; spec decision D3). -/
def Obligations.UpdateFromIdleStartsTheSweep : Prop :=
  ∀ (s : State) (w sel : Bool) (m : Nibble) (d : Word) (a : Nat), s.sched = .idle →
    ∃ t t', exec (.update w sel m d a) s = .next t ∧
      exec .tick { s with sched := .servicing 0, inp := ⟨false, w, sel, m, d, a⟩ } = .next t' ∧
      t = { t' with inp := ⟨true, w, sel, m, d, a⟩ } ∧
      t.sched = if 1 < s.cfg.N then .servicing 1 else .idle

/-- A pulse in a tick that starts in Servicing(i), for any i, has no effect and is not remembered (R123). -/
def Obligations.UpdateDuringSweepHasNoEffect : Prop :=
  ∀ (s : State) (w sel : Bool) (m : Nibble) (d : Word) (a i : Nat), s.sched = .servicing i →
    ∃ t t', exec (.update w sel m d a) s = .next t ∧
      exec .tick { s with inp := ⟨false, w, sel, m, d, a⟩ } = .next t' ∧
      t = { t' with inp := ⟨true, w, sel, m, d, a⟩ }

/-! ### The tick, field by field -/

/-- A tick that services oscillator i leaves Servicing(i+1), or Idle after the last; a tick that services none stays
Idle (R122, R121). -/
def Obligations.TickMovesTheScheduler : Prop :=
  ∀ (s : State), ∃ t, exec .tick s = .next t ∧
    (∀ i, Services s s.inp i → t.sched = if i + 1 < s.cfg.N then .servicing (i + 1) else .idle) ∧
    (s.sched = .idle → s.inp.update = false → t.sched = .idle) ∧
    t.cfg = s.cfg ∧ t.script = s.script ∧ t.inp = s.inp

/-- A tick in Idle without the pulse stays Idle, services nothing and issues no request: only write-backs and the host write
touch a register, and the host write none but the increment and the staged bits of the oscillator it addresses (R121; spec
decision D3). -/
def Obligations.IdleTickServicesNothing : Prop :=
  ∀ (s : State), s.sched = .idle → s.inp.update = false →
    ∃ t, exec .tick s = .next t ∧ t.sched = .idle ∧ (0 < s.cfg.D → t.pipe[0]? = some ⟨false, 0, 0, 0⟩) ∧
      t.osc.length = s.osc.length ∧
      ∀ (x : Nat) (o : Osc), s.osc[x]? = some o → ∃ o', t.osc[x]? = some o' ∧
        o' = { o with
          sin := s.sinAfterLanding x o
          cos := s.cosAfterLanding x o
          inc := o'.inc
          pval := o'.pval
          pmask := o'.pmask } ∧
        (¬ (s.inp.writeEnable = true ∧ s.inp.address = x ∧ x < s.cfg.N) →
          o'.inc = o.inc ∧ o'.pval = o.pval ∧ o'.pmask = o.pmask)

/-- The accumulator after a tick: 0 if its service merges a reset request, the sum modulo 2^16 if it is serviced
otherwise (twice the increment on Triangle), else unchanged (R125, R143). -/
def Obligations.TickAccumulator : Prop :=
  ∀ (s : State) (x : Nat) (o : Osc), s.osc[x]? = some o →
    ∃ t o', exec .tick s = .next t ∧ t.osc[x]? = some o' ∧
      (¬ Services s s.inp x → o'.acc = o.acc) ∧
      (Services s s.inp x → (o.pmask.getLsbD 0 && o.pval.getLsbD 0) = true → o'.acc = 0) ∧
      (Services s s.inp x → (o.pmask.getLsbD 0 && o.pval.getLsbD 0) = false →
        o'.acc.toNat = (o.acc.toNat + (if o.wave = 0b10 then 2 * o.inc.toNat else o.inc.toNat)) % 2 ^ 16)

/-- The direction after a tick: the staged value if its service merges one, else flipped by an odd number of wraps on
Triangle, else unchanged (R126, R142). -/
def Obligations.TickDirection : Prop :=
  ∀ (s : State) (x : Nat) (o : Osc), s.osc[x]? = some o →
    ∃ t o', exec .tick s = .next t ∧ t.osc[x]? = some o' ∧
      (¬ Services s s.inp x → o'.dir = o.dir) ∧
      (Services s s.inp x → o.pmask.getLsbD 1 = true → o'.dir = o.pval.getLsbD 1) ∧
      (Services s s.inp x → o.pmask.getLsbD 1 = false → o.wave ≠ 0b10 → o'.dir = o.dir) ∧
      (Services s s.inp x → o.pmask.getLsbD 1 = false → o.wave = 0b10 →
        o'.dir = (o.dir ^^ decide ((o.acc.toNat + 2 * o.inc.toNat) / 2 ^ 16 % 2 = 1)))

/-- The sine and cosine state after a tick. A service that merges a reset request sets phase 0, sine 0 and cosine plus or
minus one by the merged direction, whatever the waveform and whatever write-back lands; it issues nothing and resets
neither the increment nor the waveform. A service without one takes the phase sum. In every other tick of `x`, and in a
service without a reset, the pair is the old one plus the partials that land (R143, R166; spec decisions D2, D5, D7). -/
def Obligations.TickSineAndCosine : Prop :=
  ∀ (s : State) (x : Nat) (o : Osc), s.osc[x]? = some o →
    ∃ t o', exec .tick s = .next t ∧ t.osc[x]? = some o' ∧
      (Services s s.inp x → (o.pmask.getLsbD 0 && o.pval.getLsbD 0) = true →
        o'.acc = 0 ∧ o'.sin = 0 ∧
        (o'.cos = if o'.dir then BitVec.ofNat 16 (2 ^ 16 - (BitVec.ofNat 16 (2 ^ s.cfg.fracBits)).toNat)
          else BitVec.ofNat 16 (2 ^ s.cfg.fracBits)) ∧
        (0 < s.cfg.D → t.pipe[0]? = some ⟨false, 0, 0, 0⟩) ∧
        (s.inp.writeEnable = false → o'.inc = o.inc) ∧
        (o.pmask.getLsbD 2 = false → o.pmask.getLsbD 3 = false → o'.wave = o.wave)) ∧
      (Services s s.inp x → (o.pmask.getLsbD 0 && o.pval.getLsbD 0) = false →
        o'.acc.toNat = (o.acc.toNat + (if o.wave = 0b10 then 2 * o.inc.toNat else o.inc.toNat)) % 2 ^ 16) ∧
      (¬ (Services s s.inp x ∧ (o.pmask.getLsbD 0 && o.pval.getLsbD 0) = true) →
        o'.sin = s.sinAfterLanding x o ∧ o'.cos = s.cosAfterLanding x o)

/-- The waveform and the staged bits after a tick. A service merges each staged waveform bit and clears the mask, and the
host's write of the same tick comes after it (R141, R144, R146). -/
def Obligations.TickWaveformAndStaging : Prop :=
  ∀ (s : State) (x : Nat) (o : Osc), s.osc[x]? = some o →
    ∃ t o', exec .tick s = .next t ∧ t.osc[x]? = some o' ∧
      (¬ Services s s.inp x → o'.wave = o.wave) ∧
      (Services s s.inp x → ∀ k < 2, o'.wave.getLsbD k =
        if o.pmask.getLsbD (k + 2) then o.pval.getLsbD (k + 2) else o.wave.getLsbD k) ∧
      (let staged := s.inp.writeEnable && s.inp.select && decide (s.inp.address = x ∧ x < s.cfg.N)
       ∀ k < 4, o'.pval.getLsbD k =
          (if staged && s.inp.mask.getLsbD k then s.inp.dataIn.getLsbD k else o.pval.getLsbD k) ∧
        (o'.pmask.getLsbD k = true ↔
          (staged && s.inp.mask.getLsbD k) = true ∨ (¬ Services s s.inp x ∧ o.pmask.getLsbD k = true)))

/-- The increment after a tick: changed by a WRPINC to its own address and by nothing else (R21). -/
def Obligations.TickIncrement : Prop :=
  ∀ (s : State) (x : Nat) (o : Osc), s.osc[x]? = some o →
    ∃ t o', exec .tick s = .next t ∧ t.osc[x]? = some o' ∧
      o'.inc = if s.inp.writeEnable ∧ ¬ s.inp.select ∧ s.inp.address = x ∧ x < s.cfg.N then s.inp.dataIn else o.inc

/-- The pipeline after a tick: every slot one place on, and in slot 0 the request of the serviced oscillator if it is on
Sine before the merge and has no reset request, with the products of the pair that the write-back left; else the disabled
slot (R160 to R165; spec decisions D2, D6, D10, D11). -/
def Obligations.TickPipeline : Prop :=
  ∀ (s : State), s.Inv → ∃ t, exec .tick s = .next t ∧ t.pipe.length = s.cfg.D ∧
    (∀ k, k + 1 < s.cfg.D → t.pipe[k + 1]? = s.pipe[k]?) ∧
    (∀ x o, s.osc[x]? = some o → Services s s.inp x → o.wave = 0b11 →
      (o.pmask.getLsbD 0 && o.pval.getLsbD 0) = false →
      t.pipe[0]? = some ⟨true,
        BitVec.ofInt 16 ((s.cosAfterLanding x o).toInt * (o.inc.toNat : Int) / 2 ^ s.cfg.mulShift),
        BitVec.ofInt 16 (-((s.sinAfterLanding x o).toInt * (o.inc.toNat : Int)) / 2 ^ s.cfg.mulShift), x⟩) ∧
    ((∀ x o, s.osc[x]? = some o → Services s s.inp x →
        o.wave ≠ 0b11 ∨ (o.pmask.getLsbD 0 && o.pval.getLsbD 0) = true) →
      t.pipe[0]? = some ⟨false, 0, 0, 0⟩)

/-- The ports of a tick: `data_out` and `read_error` show the state before the edge, and `write_error` is 1 for a write
out of range and for nothing else (00_scope.md R15, R74). -/
def Obligations.TickOutputs : Prop :=
  ∀ (s : State), ∃ t r, exec .tick s = .next t ∧ exec (.read s.inp.address) s = .next r ∧
    t.out.dataOut = r.out.dataOut ∧ t.out.readError = r.out.readError ∧
    (t.out.writeError = true ↔ s.inp.writeEnable = true ∧ s.cfg.N ≤ s.inp.address)

/-! ### Internal operations: scheduler and phase -/

/-- SWEEP_START, SWEEP_ADVANCE and RETRIGGER_IGNORED move the scheduler as R121 to R123 say and change nothing else; where
their condition does not hold they do nothing (log entry 8). -/
def Obligations.SweepStateMachine : Prop :=
  ∀ (s : State),
    (s.sched = .idle → s.inp.update = true → exec .sweepStart s = .next { s with sched := .servicing 0 }) ∧
    ((s.sched ≠ .idle ∨ s.inp.update = false) → exec .sweepStart s = .next s) ∧
    (∀ i, s.sched = .servicing i → i + 1 < s.cfg.N →
      exec .sweepAdvance s = .next { s with sched := .servicing (i + 1) }) ∧
    (∀ i, s.sched = .servicing i → ¬ i + 1 < s.cfg.N → exec .sweepAdvance s = .next { s with sched := .idle }) ∧
    (s.sched = .idle → exec .sweepAdvance s = .next s) ∧
    exec .retriggerIgnored s = .next s

/-- PHASE_ADVANCE: the exact sum's low 16 bits go to the accumulator and its bit 16 to `ovf`; nothing else changes (R125,
with spec decision D8; the signal is the model's, log entry 7). As a row of its own it takes the record as it stands: the
model's choice, log entry 8. -/
def Obligations.PhaseAdvanceSums : Prop :=
  ∀ (s : State) (i : Nat) (o : Osc), s.sched = .servicing i → s.osc[i]? = some o →
    let sum := o.acc.toNat + (if o.wave = 0b10 then 2 * o.inc.toNat else o.inc.toNat)
    exec .phaseAdvance s = .next { s with
      osc := s.osc.set i { o with acc := BitVec.ofNat 16 (sum % 2 ^ 16) }
      sig := { s.sig with ovf := decide (sum / 2 ^ 16 % 2 = 1) } }

/-- TRIANGLE_FLIP: the direction flips exactly on Triangle with `ovf` set; nothing else changes (R126). As a row of its own
it tests the record's current waveform and the `ovf` that the rows before it left: the model's choice, log entry 8. -/
def Obligations.TriangleFlipFlipsOnOverflow : Prop :=
  ∀ (s : State) (i : Nat) (o : Osc), s.sched = .servicing i → s.osc[i]? = some o →
    exec .triangleFlip s = .next { s with
      osc := s.osc.set i { o with dir := if o.wave = 0b10 ∧ s.sig.ovf = true then !o.dir else o.dir } }

/-- SERVICE is PHASE_ADVANCE, TRIANGLE_FLIP, RESET_REQUEST, ISSUE and MERGE, in that order (R124): so the issue and the
phase step use the waveform before the merge. -/
def Obligations.ServiceIsItsSteps : Prop :=
  ∀ (s : State), ∃ t, exec .service s = .next t ∧
    execAll [.phaseAdvance, .triangleFlip, .resetRequest, .issue, .merge] s = .next t

/-- A tick is READ of its address, WRITEBACK, SWEEP_START, NO_ISSUE, SERVICE and SWEEP_ADVANCE, then the host write with its
`write_error`, and SHIFT last: the events of R205 in the order of R120's phases (spec decision D2). NO_ISSUE stands before
SERVICE, whose request replaces it. -/
def Obligations.TickIsItsPhases : Prop :=
  ∀ (s : State), ∃ t u, exec .tick s = .next t ∧
    execAll [.read s.inp.address, .writeback, .sweepStart, .noIssue, .service, .sweepAdvance] s = .next u ∧
    exec .shift { u with
      osc := hostWrite s.cfg s.inp u.osc
      out := { u.out with writeError := s.inp.writeEnable && decide (s.cfg.N ≤ s.inp.address) } } = .next t

/-! ### Internal operations: merge -/

/-- RESET_REQUEST: `rr` is set exactly when the staged reset bit and its mask bit are; nothing else changes (R140). As a row
of its own it takes the record as it stands: the model's choice, log entry 8. -/
def Obligations.ResetRequestReadsTheStagedBits : Prop :=
  ∀ (s : State) (i : Nat) (o : Osc), s.sched = .servicing i → s.osc[i]? = some o →
    exec .resetRequest s =
      .next { s with sig := { s.sig with rr := o.pmask.getLsbD 0 && o.pval.getLsbD 0 } }

/-- MERGE_WAVE: each of the two waveform bits is replaced exactly if its own mask bit is set; nothing else changes
(R141). As a row of its own it takes the record as it stands: the model's choice, log entry 8. -/
def Obligations.MergeWaveIsBitByBit : Prop :=
  ∀ (s : State) (i : Nat) (o : Osc), s.sched = .servicing i → s.osc[i]? = some o →
    ∃ wave2 : WaveCode, exec .mergeWave s = .next { s with osc := s.osc.set i { o with wave := wave2 } } ∧
      ∀ k < 2, wave2.getLsbD k =
        if o.pmask.getLsbD (k + 2) then o.pval.getLsbD (k + 2) else o.wave.getLsbD k

/-- MERGE_DIR: the staged direction if its mask bit is set, else the direction stays; nothing else changes (R142). As a row
of its own it takes the direction the record has as R142's `dir1`, whether or not this service's triangle flip has run: the
model's choice, log entry 8. `TickDirection` states R142 over a whole tick. -/
def Obligations.MergeDirTakesTheStagedDirection : Prop :=
  ∀ (s : State) (i : Nat) (o : Osc), s.sched = .servicing i → s.osc[i]? = some o →
    exec .mergeDir s = .next { s with
      osc := s.osc.set i { o with dir := if o.pmask.getLsbD 1 = true then o.pval.getLsbD 1 else o.dir } }

/-- OSC_RESET: with `rr` set, phase 0, sine 0 and cosine plus or minus one by the direction, whatever the waveform; with
`rr` clear, nothing (R143; spec decision D5). As a row of its own it takes the direction the record has as R143's `dir2`,
so a staged direction that MERGE_DIR has not merged does not count, and the `rr` that the rows before it left: the model's
choice, log entry 8. `TickSineAndCosine` states R143 over a whole tick. -/
def Obligations.OscResetRestartsThePair : Prop :=
  ∀ (s : State) (i : Nat) (o : Osc), s.sched = .servicing i → s.osc[i]? = some o →
    exec .oscReset s = .next (if s.sig.rr = true then
      { s with osc := s.osc.set i { o with
          acc := 0
          sin := 0
          cos := if o.dir = true then BitVec.ofNat 16 (2 ^ 16 - (BitVec.ofNat 16 (2 ^ s.cfg.fracBits)).toNat)
            else BitVec.ofNat 16 (2 ^ s.cfg.fracBits) } }
      else s)

/-- MASK_CLEAR: every staged bit is consumed and `pval` keeps its value; nothing else changes (R144). As a row of its own it
clears the mask whether or not the merge has run: the model's choice, log entry 8. -/
def Obligations.MaskClearConsumesEveryBit : Prop :=
  ∀ (s : State) (i : Nat) (o : Osc), s.sched = .servicing i → s.osc[i]? = some o →
    exec .maskClear s = .next { s with osc := s.osc.set i { o with pmask := 0b0000 } }

/-- MERGE is RESET_REQUEST, MERGE_WAVE, MERGE_DIR, OSC_RESET and MASK_CLEAR, in that order: the reset uses the merged
direction (R145). -/
def Obligations.MergeIsItsParts : Prop :=
  ∀ (s : State), ∃ t, exec .merge s = .next t ∧
    execAll [.resetRequest, .mergeWave, .mergeDir, .oscReset, .maskClear] s = .next t

/-! ### Internal operations: sine engine -/

/-- ISSUE: on Sine without a reset request the request carries both products and the cursor, else it is the disabled
slot; nothing else changes (R160). As a row of its own it takes the record as it stands and the `rr` that the rows before it
left: the model's choice, log entry 8. -/
def Obligations.IssueCarriesBothProducts : Prop :=
  ∀ (s : State) (i : Nat) (o : Osc), s.sched = .servicing i → s.osc[i]? = some o →
    exec .issue s = .next { s with sig := { s.sig with
      req := if o.wave = 0b11 ∧ s.sig.rr = false then
          ⟨true, BitVec.ofInt 16 (o.cos.toInt * (o.inc.toNat : Int) / 2 ^ s.cfg.mulShift),
            BitVec.ofInt 16 (-(o.sin.toInt * (o.inc.toNat : Int)) / 2 ^ s.cfg.mulShift), i⟩
        else ⟨false, 0, 0, 0⟩ } }

/-- MULSIN: the floor of the exact product over 2^MUL_SHIFT, modulo 2^16 (R161; spec decision D6). As a row of its own it
takes the record as it stands and leaves the product in a signal: the model's choice, log entries 7 and 8. -/
def Obligations.MulsinIsTheFlooredProduct : Prop :=
  ∀ (s : State) (i : Nat) (o : Osc), s.sched = .servicing i → s.osc[i]? = some o →
    exec .mulsin s = .next { s with sig := { s.sig with
      sp := BitVec.ofInt 16 (o.cos.toInt * (o.inc.toNat : Int) / 2 ^ s.cfg.mulShift) } }

/-- MULCOS: negated first, then floored (R162; spec decision D6). As a row of its own it takes the record as it stands and
leaves the product in a signal: the model's choice, log entries 7 and 8. -/
def Obligations.MulcosIsTheFlooredNegatedProduct : Prop :=
  ∀ (s : State) (i : Nat) (o : Osc), s.sched = .servicing i → s.osc[i]? = some o →
    exec .mulcos s = .next { s with sig := { s.sig with
      cp := BitVec.ofInt 16 (-(o.sin.toInt * (o.inc.toNat : Int)) / 2 ^ s.cfg.mulShift) } }

/-- At MUL_SHIFT = 16 no product is cut: each partial, read as signed, is the floored product itself and lies in the
range the spec gives (43_sine_engine.md section 1). -/
def Obligations.ProductsFitAtShiftSixteen : Prop :=
  ∀ (c : Config) (x inc : Word), c.mulShift = 16 →
    (mulSin c x inc).toInt = x.toInt * (inc.toNat : Int) / 65536 ∧
    (mulCos c x inc).toInt = -(x.toInt * (inc.toNat : Int)) / 65536 ∧
    (mulSin c x inc).toInt ≤ 32766 ∧ -32767 ≤ (mulCos c x inc).toInt

/-- NO_ISSUE: when nothing is serviced, or the service is not on Sine or has a reset request, the request is the disabled
slot; a service that issues is left alone (R164; log entry 8). -/
def Obligations.NoIssueDisablesTheRequest : Prop :=
  ∀ (s : State),
    (s.sched = .idle → exec .noIssue s = .next { s with sig := { s.sig with req := ⟨false, 0, 0, 0⟩ } }) ∧
    (∀ i o, s.sched = .servicing i → s.osc[i]? = some o → (o.wave ≠ 0b11 ∨ s.sig.rr = true) →
      exec .noIssue s = .next { s with sig := { s.sig with req := ⟨false, 0, 0, 0⟩ } }) ∧
    (∀ i o, s.sched = .servicing i → s.osc[i]? = some o → o.wave = 0b11 → s.sig.rr = false →
      exec .noIssue s = .next s)

/-- SHIFT: each slot moves one place on, slot 0 takes the request, the oldest slot leaves; but for the signals of the
tick, which end with it (log entry 7), nothing else changes (R165; spec decision D10). As a row of its own it takes the
request that the rows before it left: the model's choice, log entry 8. -/
def Obligations.ShiftMovesEverySlot : Prop :=
  ∀ (s : State), s.pipe.length = s.cfg.D → 0 < s.cfg.D →
    ∃ t, exec .shift s = .next t ∧ t.pipe.length = s.cfg.D ∧ t.pipe[0]? = some s.sig.req ∧
      (∀ k, k + 1 < s.cfg.D → t.pipe[k + 1]? = s.pipe[k]?) ∧
      t = { s with pipe := t.pipe, sig := .idle }

/-- WRITEBACK: an enabled oldest slot is added to its target's pair, modulo 2^16; with none, nothing happens; nothing
else changes (R166; spec decision D7). As a row of its own it leaves the slot in place: the model's choice, log entry 8. -/
def Obligations.WritebackAddsThePartials : Prop :=
  ∀ (s : State) (w : Slot), s.pipe[s.cfg.D - 1]? = some w →
    (∀ o, w.en = true → s.osc[w.tgt]? = some o →
      exec .writeback s = .next { s with osc := s.osc.set w.tgt { o with
        sin := BitVec.ofInt 16 (o.sin.toInt + w.sp.toInt)
        cos := BitVec.ofInt 16 (o.cos.toInt + w.cp.toInt) } }) ∧
    (w.en = false → exec .writeback s = .next s)

/-! ### Internal operations: output decode -/

/-- DECODE_SINE shows the sine state of the addressed oscillator on Sine and changes nothing else (R180). -/
def Obligations.DecodeSineShowsTheSineState : Prop :=
  ∀ (s : State) (o : Osc), s.inp.address < s.cfg.N → s.osc[s.inp.address]? = some o → o.wave = 0b11 →
    exec .decodeSine s = .next { s with out := { s.out with dataOut := .ok o.sin } } ∧
    exec .decode s = .next { s with out := { s.out with dataOut := .ok o.sin } }

/-- DECODE_RAMP on Ramp and DECODE_TRIANGLE on Triangle show the accumulator, or its negation modulo 2^16 when the
direction is set, and change nothing else (R181, R182). -/
def Obligations.DecodeRampAndTriangleNegateByDirection : Prop :=
  ∀ (s : State) (o : Osc), s.inp.address < s.cfg.N → s.osc[s.inp.address]? = some o →
    let v : Word := if o.dir then BitVec.ofNat 16 (2 ^ 16 - o.acc.toNat) else o.acc
    (o.wave = 0b00 → exec .decodeRamp s = .next { s with out := { s.out with dataOut := .ok v } } ∧
      exec .decode s = .next { s with out := { s.out with dataOut := .ok v } }) ∧
    (o.wave = 0b10 → exec .decodeTriangle s = .next { s with out := { s.out with dataOut := .ok v } } ∧
      exec .decode s = .next { s with out := { s.out with dataOut := .ok v } })

/-- DECODE_SQUARE shows 0x8000 or 0x0000 by the accumulator's top bit XOR the direction (R183). -/
def Obligations.DecodeSquareShowsTheTopBit : Prop :=
  ∀ (s : State) (o : Osc), s.inp.address < s.cfg.N → s.osc[s.inp.address]? = some o → o.wave = 0b01 →
    let v : Word := if o.acc.getLsbD 15 ≠ o.dir then 0x8000 else 0x0000
    exec .decodeSquare s = .next { s with out := { s.out with dataOut := .ok v } } ∧
    exec .decode s = .next { s with out := { s.out with dataOut := .ok v } }

/-- For Ramp and Triangle the output with the direction set is the negation of the output with it clear, and for Square
the output's top bit is the accumulator's XOR the direction (44_output_decode.md R181 to R183). -/
def Obligations.DecodeSymmetries : Prop :=
  ∀ (o : Osc), (o.wave = 0b00 ∨ o.wave = 0b10 →
      ({ o with dir := true } : Osc).output = -({ o with dir := false } : Osc).output) ∧
    (o.wave = 0b01 → o.output.getLsbD 15 = (o.acc.getLsbD 15 ^^ o.dir) ∧
      ∀ k < 15, o.output.getLsbD k = false)

/-- An internal operation whose state condition does not hold does nothing: those on the cursor's oscillator while the
scheduler is Idle, and those on the addressed oscillator where the address selects none or the waveform is another (the
model's choice, log entry 8). -/
def Obligations.UnselectedOperationsDoNothing : Prop :=
  ∀ (s : State),
    (s.sched = .idle → ∀ i ∈ [Instr.service, .phaseAdvance, .triangleFlip, .resetRequest, .mergeWave, .mergeDir,
      .oscReset, .maskClear, .merge, .issue, .mulsin, .mulcos], exec i s = .next s) ∧
    (s.cfg.N ≤ s.inp.address → ∀ i ∈ [Instr.decode, .decodeSine, .decodeRamp, .decodeTriangle, .decodeSquare],
      exec i s = .next s) ∧
    (∀ o, s.osc[s.inp.address]? = some o →
      (o.wave ≠ 0b11 → exec .decodeSine s = .next s) ∧ (o.wave ≠ 0b00 → exec .decodeRamp s = .next s) ∧
      (o.wave ≠ 0b10 → exec .decodeTriangle s = .next s) ∧ (o.wave ≠ 0b01 → exec .decodeSquare s = .next s))

/-! ### The whole machine -/

/-- Every instruction keeps the invariant of well-shaped states. -/
def Obligations.EveryInstructionKeepsTheInvariant : Prop :=
  ∀ (i : Instr) (s t : State), s.Inv → exec i s = .next t → t.Inv

/-- Every step keeps the invariant and a script the ports can carry. -/
def Obligations.EveryStepKeepsTheInvariant : Prop :=
  ∀ (s t : State), s.Inv → s.ScriptFits → step s = .next t → t.Inv ∧ t.ScriptFits

/-- No state is stuck: with a script the ports can carry, every step answers a next state, and so does every run
(70_reset_and_hazards.md section 3; 60_exceptions.md R203, R206). -/
def Obligations.NoRunStops : Prop :=
  ∀ (k : Nat) (s : State), s.ScriptFits → ∃ t, steps k s = .next t

/-- No instruction but CONFIGURE changes a parameter, and none at all changes the host's script. -/
def Obligations.ParametersAreFixed : Prop :=
  ∀ (i : Instr) (s t : State), exec i s = .next t → t.script = s.script ∧
    (t.cfg ≠ s.cfg → ∃ n d a f m, i = .configure n d a f m)

/-- No step changes `osc[x].pmask` but an accepted WRWFDR to `x`, which sets the bits of its mask and no other, and the
service of `x`, which clears all bits before the same step's write, if any, sets bits again (R29). -/
def Obligations.PendingMaskChangesOnlyByWriteOrService : Prop :=
  ∀ (s t : State) (x : Nat) (o o' : Osc), step s = .next t → s.osc[x]? = some o → t.osc[x]? = some o' →
    let staged := s.fetch.writeBit = true ∧ s.fetch.selectBit = true ∧ s.fetch.address = x ∧ x < s.cfg.N
    (s.services ≠ some x → staged → o'.pmask = o.pmask ||| s.fetch.maskField) ∧
    (s.services ≠ some x → ¬ staged → o'.pmask = o.pmask) ∧
    (s.services = some x → staged → o'.pmask = s.fetch.maskField) ∧
    (s.services = some x → ¬ staged → o'.pmask = 0)

/-- A step changes the pair of `x` only by the one request that lands or by the one service's reset request, and nothing
cancels a request that is due to land but a reset in the same tick (43_sine_engine.md R166 to R168). -/
def Obligations.PairChangesOnlyByLandingOrReset : Prop :=
  ∀ (s t : State) (x : Nat) (o o' : Osc), step s = .next t → s.osc[x]? = some o → t.osc[x]? = some o' →
    ¬ (s.services = some x ∧ (o.pmask.getLsbD 0 && o.pval.getLsbD 0) = true) →
    o'.sin = s.sinAfterLanding x o ∧ o'.cos = s.cosAfterLanding x o

/-- A sweep that a pulse starts from Idle services oscillator x in its tick x, for every x below N, and is back at Idle
after exactly N ticks (R121, R122). -/
def Obligations.SweepServicesEachOscillatorInItsTick : Prop :=
  ∀ (s : State), s.Inv → s.ScriptFits → s.sched = .idle → s.fetch.updateBit = true →
    (∀ x, x < s.cfg.N → ∃ t, steps x s = .next t ∧ t.services = some x) ∧
    ∃ t, steps s.cfg.N s = .next t ∧ t.sched = .idle

/-- SWEEP from Idle is a whole sweep: it ends Idle, and every oscillator's accumulator has moved by exactly one service
and its staged bits are consumed (R82, R125, R143, R144). -/
def Obligations.SweepMovesEveryOscillatorOnce : Prop :=
  ∀ (s : State), s.Inv → s.sched = .idle →
    ∃ t, exec .sweep s = .next t ∧ t.sched = .idle ∧
      ∀ (x : Nat) (o : Osc), s.osc[x]? = some o → ∃ o' : Osc, t.osc[x]? = some o' ∧ o'.pmask = 0 ∧ o'.pval = o.pval ∧ o'.inc = o.inc ∧
        o'.acc.toNat = if (o.pmask.getLsbD 0 && o.pval.getLsbD 0) = true then 0
          else (o.acc.toNat + (if o.wave = 0b10 then 2 * o.inc.toNat else o.inc.toNat)) % 2 ^ 16

/-- A request that a step issues is in slot k after k more steps and is added to its target's pair by the D-th step after
the issue, unless that step's service resets the target (43_sine_engine.md R165, R166). -/
def Obligations.RequestLandsAfterExactlyDTicks : Prop :=
  ∀ (s t : State) (r : Slot), s.Inv → s.ScriptFits → step s = .next t → t.pipe[0]? = some r → r.en = true →
    (∀ k, k < s.cfg.D → ∃ q, steps k t = .next q ∧ q.pipe[k]? = some r) ∧
    ∃ q q' o o', steps (s.cfg.D - 1) t = .next q ∧ step q = .next q' ∧
      q.osc[r.tgt]? = some o ∧ q'.osc[r.tgt]? = some o' ∧
      (¬ (q.services = some r.tgt ∧ (o.pmask.getLsbD 0 && o.pval.getLsbD 0) = true) →
        o'.sin = o.sin + r.sp ∧ o'.cos = o.cos + r.cp)

/-- The accumulator of an oscillator off Triangle, with nothing staged and no host write to it, is after any run
its first value plus the increment times the number of its services, modulo 2^16 (R125). -/
def Obligations.AccumulatorCountsServicesModulo : Prop :=
  ∀ (k : Nat) (s t : State) (x : Nat) (o : Osc), steps k s = .next t → s.osc[x]? = some o →
    o.wave ≠ 0b10 → o.pmask = 0 → (∀ w ∈ s.script, w.writeBit = true → w.address ≠ x) →
    ∃ o', t.osc[x]? = some o' ∧
      o'.acc.toNat = (o.acc.toNat + serviceCount x k s * o.inc.toNat) % 2 ^ 16

/-- Two WRWFDR writes to one oscillator with disjoint masks, neither in a tick that services it, leave what one write with
the union mask and the combined value leaves (R103). -/
def Obligations.DisjointWritesCombine : Prop :=
  ∀ (s : State) (a : Nat) (m1 v1 m2 v2 : Nibble), m1 &&& m2 = 0 →
    (∀ i, s.sched = .servicing i → i ≠ a ∧ i + 1 ≠ a) →
    ∃ t t', execAll [.wrwfdr false a m1 v1, .wrwfdr false a m2 v2] s = .next t ∧
      execAll [.nowrite false a, .wrwfdr false a (m1 ||| m2) ((v1 &&& m1) ||| (v2 &&& m2))] s = .next t' ∧
      t = { t' with inp := t.inp, out := t.out }
end

