-- ==== Sys2Proof/Laws/Decode.lean ====
section
/-!
SUPPORT. What the decoder reads, and that the spellings of one WFDR write run alike.
-/
namespace Sys2Proof

/-- The used bits of a zero-extended WFDR value are the value (R77). -/
@[simp] theorem wfdrValue_setWidth (v : Nibble) : wfdrValue (v.setWidth 16) = v := by
  revert v; decide

/-- What the decoder reads from packed inputs (R71 to R73). -/
theorem decode_packHC (u w s : Bool) (m : Nibble) (d : Word) (a : Nat) :
    decode ⟨packHC u w s m d, a⟩ = .ok (match w, s with
      | false, sel => if u then .update false sel m d a else .nowrite false a
      | true, false => .wrpinc u a d
      | true, true => decodeWfdr u a m (wfdrValue d)) := by
  have h23 : (packHC u w s m d).getLsbD 23 = false := by
    simp only [packHC, BitVec.getLsbD_append]; simp
  have h22 : (packHC u w s m d).getLsbD 22 = u := by
    simp only [packHC, BitVec.getLsbD_append]; simp
  have h21 : (packHC u w s m d).getLsbD 21 = w := by
    simp only [packHC, BitVec.getLsbD_append]; simp
  have h20 : (packHC u w s m d).getLsbD 20 = s := by
    simp only [packHC, BitVec.getLsbD_append]; simp
  have hm : (packHC u w s m d).extractLsb' 16 4 = m := by
    ext i hi
    simp only [packHC, BitVec.getElem_extractLsb', BitVec.getLsbD_append]
    simp [show ¬ (16 + i < 16) by omega, hi]
  have hd : (packHC u w s m d).extractLsb' 0 16 = d := by
    ext i hi
    simp only [packHC, BitVec.getElem_extractLsb', BitVec.getLsbD_append]
    simp [hi]
  unfold decode
  simp only [h23, HostWord.writeBit, HostWord.selectBit, HostWord.updateBit, HostWord.maskField,
    HostWord.dataField, h22, h21, h20, hm, hd]
  cases w <;> cases s <;> cases u <;> rfl

/-- A decoded instruction carries the address of its word (R70). -/
theorem decode_portAddress {w : HostWord} {i : Instr} (h : decode w = .ok i) :
    i.portAddress = some w.address := by
  unfold decode at h
  split at h
  · cases h
  · split at h
    · split at h <;> (cases h; rfl)
    · cases h; rfl
    · cases h
      unfold decodeWfdr
      repeat (split; · rfl)
      rfl

end Sys2Proof

namespace Sys2Proof.Machine

/-- Each spelling of a WFDR write runs as the write (R82). -/
theorem exec_decodeWfdr (u : Bool) (a : Nat) (m v : Nibble) (s : State) :
    exec (decodeWfdr u a m v) s = exec (.wrwfdr u a m v) s := by
  unfold decodeWfdr
  split
  · rename_i h; obtain ⟨rfl, rfl⟩ := h; rfl
  · split
    · rename_i h; obtain ⟨rfl, h2⟩ := h
      have hv : wfdrBits (.ofCode (v.extractLsb' 2 2)) false false = v := by
        revert h2; revert v; decide
      exact congrArg (fun q => Host.Outcome.next (tick (.wrwfdr u a _ q) s)) hv
    · split
      · rename_i h; obtain ⟨rfl, h2⟩ := h
        have hv : wfdrBits .ramp (v.getLsbD 1) false = v := by
          revert h2; clear * -; revert v; decide
        exact congrArg (fun q => Host.Outcome.next (tick (.wrwfdr u a _ q) s)) hv
      · split
        · rename_i h; subst h
          have hv : wfdrBits (.ofCode (v.extractLsb' 2 2)) (v.getLsbD 1) (v.getLsbD 0) = v := by
            clear * -; revert v; decide
          exact congrArg (fun q => Host.Outcome.next (tick (.wrwfdr u a _ q) s)) hv
        · rfl

end Sys2Proof.Machine
end

