-- ==== Sys2Proof/Laws/State.lean ====
section
/-!
SUPPORT. The field lemmas of every record update, so that no proof unfolds one.
-/
namespace Sys2Proof.Machine

/-! ### Updates of State -/

@[simp] theorem setOsc_cfg (s : State) (i : Nat) (o : Osc) : (s.setOsc i o).cfg = s.cfg := rfl
@[simp] theorem setOsc_osc (s : State) (i : Nat) (o : Osc) : (s.setOsc i o).osc = s.osc.set i o := rfl
@[simp] theorem setOsc_pipe (s : State) (i : Nat) (o : Osc) : (s.setOsc i o).pipe = s.pipe := rfl
@[simp] theorem setOsc_sched (s : State) (i : Nat) (o : Osc) : (s.setOsc i o).sched = s.sched := rfl
@[simp] theorem setOsc_inp (s : State) (i : Nat) (o : Osc) : (s.setOsc i o).inp = s.inp := rfl
@[simp] theorem setOsc_out (s : State) (i : Nat) (o : Osc) : (s.setOsc i o).out = s.out := rfl
@[simp] theorem setOsc_sig (s : State) (i : Nat) (o : Osc) : (s.setOsc i o).sig = s.sig := rfl
@[simp] theorem setOsc_script (s : State) (i : Nat) (o : Osc) : (s.setOsc i o).script = s.script := rfl

@[simp] theorem present_cfg (s : State) (v : Word) : (s.present v).cfg = s.cfg := rfl
@[simp] theorem present_osc (s : State) (v : Word) : (s.present v).osc = s.osc := rfl
@[simp] theorem present_pipe (s : State) (v : Word) : (s.present v).pipe = s.pipe := rfl
@[simp] theorem present_sched (s : State) (v : Word) : (s.present v).sched = s.sched := rfl
@[simp] theorem present_inp (s : State) (v : Word) : (s.present v).inp = s.inp := rfl
@[simp] theorem present_out (s : State) (v : Word) : (s.present v).out = ⟨.ok v, s.out.readError, s.out.writeError⟩ := rfl
@[simp] theorem present_sig (s : State) (v : Word) : (s.present v).sig = s.sig := rfl
@[simp] theorem present_script (s : State) (v : Word) : (s.present v).script = s.script := rfl

@[simp] theorem drive_cfg (s : State) (inp : Inputs) : (s.drive inp).cfg = s.cfg := rfl
@[simp] theorem drive_osc (s : State) (inp : Inputs) : (s.drive inp).osc = s.osc := rfl
@[simp] theorem drive_pipe (s : State) (inp : Inputs) : (s.drive inp).pipe = s.pipe := rfl
@[simp] theorem drive_sched (s : State) (inp : Inputs) : (s.drive inp).sched = s.sched := rfl
@[simp] theorem drive_inp (s : State) (inp : Inputs) : (s.drive inp).inp = inp := rfl
@[simp] theorem drive_out (s : State) (inp : Inputs) : (s.drive inp).out = s.out := rfl
@[simp] theorem drive_sig (s : State) (inp : Inputs) : (s.drive inp).sig = s.sig := rfl
@[simp] theorem drive_script (s : State) (inp : Inputs) : (s.drive inp).script = s.script := rfl

@[simp] theorem taken_cfg (s : State) : (s.taken).cfg = s.cfg := rfl
@[simp] theorem taken_osc (s : State) : (s.taken).osc = s.osc := rfl
@[simp] theorem taken_pipe (s : State) : (s.taken).pipe = s.pipe := rfl
@[simp] theorem taken_sched (s : State) : (s.taken).sched = s.sched := rfl
@[simp] theorem taken_inp (s : State) : (s.taken).inp = s.inp := rfl
@[simp] theorem taken_out (s : State) : (s.taken).out = s.out := rfl
@[simp] theorem taken_sig (s : State) : (s.taken).sig = s.sig := rfl
@[simp] theorem taken_script (s : State) : (s.taken).script = s.script.tail := rfl

@[simp] theorem withFetchWord_cfg (s : State) (n w : Nat) : (s.withFetchWord n w).cfg = s.cfg := rfl
@[simp] theorem withFetchWord_osc (s : State) (n w : Nat) : (s.withFetchWord n w).osc = s.osc := rfl
@[simp] theorem withFetchWord_pipe (s : State) (n w : Nat) : (s.withFetchWord n w).pipe = s.pipe := rfl
@[simp] theorem withFetchWord_sched (s : State) (n w : Nat) : (s.withFetchWord n w).sched = s.sched := rfl
@[simp] theorem withFetchWord_inp (s : State) (n w : Nat) : (s.withFetchWord n w).inp = s.inp := rfl
@[simp] theorem withFetchWord_out (s : State) (n w : Nat) : (s.withFetchWord n w).out = s.out := rfl
@[simp] theorem withFetchWord_sig (s : State) (n w : Nat) : (s.withFetchWord n w).sig = s.sig := rfl
@[simp] theorem withFetchWord_script (s : State) (n w : Nat) : (s.withFetchWord n w).script = .ofTable n w :: s.script.tail := rfl

@[simp] theorem construct_cfg (c : Config) (l : List HostWord) : (State.construct c l).cfg = c := rfl
@[simp] theorem construct_osc (c : Config) (l : List HostWord) : (State.construct c l).osc = List.replicate c.N (.initial c) := rfl
@[simp] theorem construct_pipe (c : Config) (l : List HostWord) : (State.construct c l).pipe = List.replicate c.D .empty := rfl
@[simp] theorem construct_sched (c : Config) (l : List HostWord) : (State.construct c l).sched = .idle := rfl
@[simp] theorem construct_inp (c : Config) (l : List HostWord) : (State.construct c l).inp = .idle := rfl
@[simp] theorem construct_out (c : Config) (l : List HostWord) : (State.construct c l).out = ⟨.ok 0, false, false⟩ := rfl
@[simp] theorem construct_sig (c : Config) (l : List HostWord) : (State.construct c l).sig = .idle := rfl
@[simp] theorem construct_script (c : Config) (l : List HostWord) : (State.construct c l).script = l := rfl

/-! ### The tick (41_scheduler.md R120) -/

@[simp] theorem tick_cfg (inp : Inputs) (s : State) : (tick inp s).cfg = s.cfg := rfl
@[simp] theorem tick_osc (inp : Inputs) (s : State) : (tick inp s).osc = 
      hostWrite s.cfg inp (servicePhase s.cfg (serviceCursor s.sched inp.update)
        (writebackPhase (oldest s.cfg s.pipe) s.osc)) := rfl
@[simp] theorem tick_pipe (inp : Inputs) (s : State) : (tick inp s).pipe = 
      shiftPhase s.cfg (requestPhase s.cfg (serviceCursor s.sched inp.update)
        (writebackPhase (oldest s.cfg s.pipe) s.osc)) s.pipe := rfl
@[simp] theorem tick_sched (inp : Inputs) (s : State) : (tick inp s).sched = nextSched s.cfg (serviceCursor s.sched inp.update) := rfl
@[simp] theorem tick_inp (inp : Inputs) (s : State) : (tick inp s).inp = inp := rfl
@[simp] theorem tick_out (inp : Inputs) (s : State) : (tick inp s).out = 
      ⟨readOut s inp.address, readError s.cfg inp.address, writeError s.cfg inp⟩ := rfl
@[simp] theorem tick_sig (inp : Inputs) (s : State) : (tick inp s).sig = .idle := rfl
@[simp] theorem tick_script (inp : Inputs) (s : State) : (tick inp s).script = s.script := rfl

/-! ### Updates of an oscillator record -/

@[simp] theorem Osc.accumulate_inc (o : Osc) (sp cp : Word) : (o.accumulate sp cp).inc = o.inc := rfl
@[simp] theorem Osc.accumulate_acc (o : Osc) (sp cp : Word) : (o.accumulate sp cp).acc = o.acc := rfl
@[simp] theorem Osc.accumulate_wave (o : Osc) (sp cp : Word) : (o.accumulate sp cp).wave = o.wave := rfl
@[simp] theorem Osc.accumulate_dir (o : Osc) (sp cp : Word) : (o.accumulate sp cp).dir = o.dir := rfl
@[simp] theorem Osc.accumulate_sin (o : Osc) (sp cp : Word) : (o.accumulate sp cp).sin = wrapAdd o.sin sp := rfl
@[simp] theorem Osc.accumulate_cos (o : Osc) (sp cp : Word) : (o.accumulate sp cp).cos = wrapAdd o.cos cp := rfl
@[simp] theorem Osc.accumulate_pval (o : Osc) (sp cp : Word) : (o.accumulate sp cp).pval = o.pval := rfl
@[simp] theorem Osc.accumulate_pmask (o : Osc) (sp cp : Word) : (o.accumulate sp cp).pmask = o.pmask := rfl

@[simp] theorem Osc.advance_inc (o : Osc) : (o.advance).inc = o.inc := rfl
@[simp] theorem Osc.advance_acc (o : Osc) : (o.advance).acc = phaseAcc o.sum := rfl
@[simp] theorem Osc.advance_wave (o : Osc) : (o.advance).wave = o.wave := rfl
@[simp] theorem Osc.advance_dir (o : Osc) : (o.advance).dir = flipDir o.wave o.dir (phaseOvf o.sum) := rfl
@[simp] theorem Osc.advance_sin (o : Osc) : (o.advance).sin = o.sin := rfl
@[simp] theorem Osc.advance_cos (o : Osc) : (o.advance).cos = o.cos := rfl
@[simp] theorem Osc.advance_pval (o : Osc) : (o.advance).pval = o.pval := rfl
@[simp] theorem Osc.advance_pmask (o : Osc) : (o.advance).pmask = o.pmask := rfl

@[simp] theorem Osc.restart_inc (o : Osc) (c : Config) : (o.restart c).inc = o.inc := rfl
@[simp] theorem Osc.restart_acc (o : Osc) (c : Config) : (o.restart c).acc = 0 := rfl
@[simp] theorem Osc.restart_wave (o : Osc) (c : Config) : (o.restart c).wave = o.wave := rfl
@[simp] theorem Osc.restart_dir (o : Osc) (c : Config) : (o.restart c).dir = o.dir := rfl
@[simp] theorem Osc.restart_sin (o : Osc) (c : Config) : (o.restart c).sin = 0 := rfl
@[simp] theorem Osc.restart_cos (o : Osc) (c : Config) : (o.restart c).cos = if o.dir then negOne c else one c := rfl
@[simp] theorem Osc.restart_pval (o : Osc) (c : Config) : (o.restart c).pval = o.pval := rfl
@[simp] theorem Osc.restart_pmask (o : Osc) (c : Config) : (o.restart c).pmask = o.pmask := rfl

@[simp] theorem Osc.stage_inc (o : Osc) (m v : Nibble) : (o.stage m v).inc = o.inc := rfl
@[simp] theorem Osc.stage_acc (o : Osc) (m v : Nibble) : (o.stage m v).acc = o.acc := rfl
@[simp] theorem Osc.stage_wave (o : Osc) (m v : Nibble) : (o.stage m v).wave = o.wave := rfl
@[simp] theorem Osc.stage_dir (o : Osc) (m v : Nibble) : (o.stage m v).dir = o.dir := rfl
@[simp] theorem Osc.stage_sin (o : Osc) (m v : Nibble) : (o.stage m v).sin = o.sin := rfl
@[simp] theorem Osc.stage_cos (o : Osc) (m v : Nibble) : (o.stage m v).cos = o.cos := rfl
@[simp] theorem Osc.stage_pval (o : Osc) (m v : Nibble) : (o.stage m v).pval = maskedReplace o.pval m v := rfl
@[simp] theorem Osc.stage_pmask (o : Osc) (m v : Nibble) : (o.stage m v).pmask = o.pmask ||| m := rfl

/-! ### The merge (42_deferred_write.md R145), field by field -/

@[simp] theorem Osc.merge_inc (c : Config) (o : Osc) (pm pv : Nibble) :
    (o.merge c pm pv).inc = o.inc := by
  unfold Osc.merge; dsimp only; split <;> rfl
@[simp] theorem Osc.merge_acc (c : Config) (o : Osc) (pm pv : Nibble) :
    (o.merge c pm pv).acc = if resetRequested pm pv then 0 else o.acc := by
  unfold Osc.merge; dsimp only; split <;> rfl
@[simp] theorem Osc.merge_wave (c : Config) (o : Osc) (pm pv : Nibble) :
    (o.merge c pm pv).wave = maskedReplace o.wave (waveField pm) (waveField pv) := by
  unfold Osc.merge; dsimp only; split <;> rfl
@[simp] theorem Osc.merge_dir (c : Config) (o : Osc) (pm pv : Nibble) :
    (o.merge c pm pv).dir = mergedDir pm pv o.dir := by
  unfold Osc.merge; dsimp only; split <;> rfl
@[simp] theorem Osc.merge_sin (c : Config) (o : Osc) (pm pv : Nibble) :
    (o.merge c pm pv).sin = if resetRequested pm pv then 0 else o.sin := by
  unfold Osc.merge; dsimp only; split <;> rfl
@[simp] theorem Osc.merge_cos (c : Config) (o : Osc) (pm pv : Nibble) :
    (o.merge c pm pv).cos = 
      if resetRequested pm pv then (if mergedDir pm pv o.dir then negOne c else one c) else o.cos := by
  unfold Osc.merge; dsimp only; split <;> rfl
@[simp] theorem Osc.merge_pval (c : Config) (o : Osc) (pm pv : Nibble) :
    (o.merge c pm pv).pval = o.pval := by
  unfold Osc.merge; dsimp only; split <;> rfl
@[simp] theorem Osc.merge_pmask (c : Config) (o : Osc) (pm pv : Nibble) :
    (o.merge c pm pv).pmask = 0 := by
  unfold Osc.merge; dsimp only; split <;> rfl

/-! ### A service (41_scheduler.md R124), field by field -/

@[simp] theorem Osc.serviced_inc (c : Config) (o : Osc) :
    (o.serviced c).inc = o.inc := by
  simp [Osc.serviced]
@[simp] theorem Osc.serviced_acc (c : Config) (o : Osc) :
    (o.serviced c).acc = if resetRequested o.pmask o.pval then 0 else phaseAcc o.sum := by
  simp [Osc.serviced]
@[simp] theorem Osc.serviced_wave (c : Config) (o : Osc) :
    (o.serviced c).wave = maskedReplace o.wave (waveField o.pmask) (waveField o.pval) := by
  simp [Osc.serviced]
@[simp] theorem Osc.serviced_dir (c : Config) (o : Osc) :
    (o.serviced c).dir = mergedDir o.pmask o.pval (flipDir o.wave o.dir (phaseOvf o.sum)) := by
  simp [Osc.serviced]
@[simp] theorem Osc.serviced_sin (c : Config) (o : Osc) :
    (o.serviced c).sin = if resetRequested o.pmask o.pval then 0 else o.sin := by
  simp [Osc.serviced]
@[simp] theorem Osc.serviced_cos (c : Config) (o : Osc) :
    (o.serviced c).cos = 
      if resetRequested o.pmask o.pval then
        (if mergedDir o.pmask o.pval (flipDir o.wave o.dir (phaseOvf o.sum)) then negOne c else one c)
      else o.cos := by
  exact Osc.merge_cos c o.advance o.pmask o.pval
@[simp] theorem Osc.serviced_pval (c : Config) (o : Osc) :
    (o.serviced c).pval = o.pval := by
  simp [Osc.serviced]
@[simp] theorem Osc.serviced_pmask (c : Config) (o : Osc) :
    (o.serviced c).pmask = 0 := by
  simp [Osc.serviced]

end Sys2Proof.Machine
end

