-- ==== Sys2Proof/Laws/Ops.lean ====
section
/-!
SUPPORT. For each shared operation, one lemma that says what it can do.
-/
namespace Sys2Proof.Machine

/-! ### Arithmetic on words -/

/-- The write-back sum is the wrapping addition of 16-bit words (R166). -/
theorem wrapAdd_eq_add (x p : Word) : wrapAdd x p = x + p := by
  unfold wrapAdd trunc16
  rw [BitVec.ofInt_add, BitVec.ofInt_toInt, BitVec.ofInt_toInt]

/-- Two's-complement negation, as R181 words it: the value itself, or its negation modulo 2^16. -/
theorem negateIf_eq (d : Bool) (acc : Word) : negateIf d acc = if d then -acc else acc := by
  cases d
  · simp [negateIf]
  · have h : acc ^^^ (0xFFFF : Word) = ~~~acc := by
      rw [show (0xFFFF : Word) = BitVec.allOnes 16 by decide, BitVec.xor_allOnes]
    simp only [negateIf, if_true, h]
    exact (BitVec.neg_eq_not_add acc).symm

/-- The step as a number: `inc`, doubled on Triangle (R125). -/
theorem phaseStep_toNat (wave : WaveCode) (inc : Word) :
    (phaseStep wave inc).toNat = if wave = Waveform.triangle.code then 2 * inc.toNat else inc.toNat := by
  have h := inc.isLt
  unfold phaseStep
  split
  · rw [BitVec.toNat_shiftLeft, BitVec.toNat_setWidth, Nat.shiftLeft_eq]; omega
  · rw [BitVec.toNat_setWidth]; omega

/-- The sum is exact: nothing is lost in its 18 bits (R125). -/
theorem phaseSum_toNat (wave : WaveCode) (inc acc : Word) :
    (phaseSum wave inc acc).toNat = acc.toNat + (phaseStep wave inc).toNat := by
  have h1 := acc.isLt
  have h2 := (phaseStep wave inc).isLt
  unfold phaseSum
  rw [BitVec.toNat_add, BitVec.toNat_setWidth, BitVec.toNat_setWidth]
  omega

/-- The new accumulator is the sum modulo 2^16 (R125). -/
theorem phaseAcc_toNat (sum : BitVec 18) : (phaseAcc sum).toNat = sum.toNat % 2 ^ 16 := by
  simp [phaseAcc, BitVec.extractLsb'_toNat]

/-- The overflow bit is the parity of the wraps (R125, R126). -/
theorem phaseOvf_eq (sum : BitVec 18) : phaseOvf sum = decide (sum.toNat / 2 ^ 16 % 2 = 1) := by
  simp [phaseOvf, BitVec.getLsbD, Nat.testBit, Nat.shiftRight_eq_div_pow, bne]
  rcases Nat.mod_two_eq_zero_or_one (sum.toNat / 65536) with h | h <;> simp [h]

/-! ### The phases of a tick -/

@[simp] theorem writebackPhase_length (w : Option Slot) (osc : List Osc) :
    (writebackPhase w osc).length = osc.length := by
  unfold writebackPhase; split
  · split <;> simp
  · rfl

@[simp] theorem servicePhase_length (c : Config) (cur : Option Nat) (osc : List Osc) :
    (servicePhase c cur osc).length = osc.length := by
  unfold servicePhase; split <;> simp

@[simp] theorem hostWrite_length (c : Config) (inp : Inputs) (osc : List Osc) :
    (hostWrite c inp osc).length = osc.length := by
  unfold hostWrite; split
  · rfl
  · split <;> simp

theorem shiftPhase_length (c : Config) (req : Slot) (pipe : List Slot) (h : pipe.length = c.D) :
    (shiftPhase c req pipe).length = c.D := by
  simp [shiftPhase, h]

/-- What phase A does to one record (R166). -/
def writebackAt (w : Option Slot) (x : Nat) (o : Osc) : Osc :=
  match w with
  | some w => if w.en = true ∧ w.tgt = x then o.accumulate w.sp w.cp else o
  | none => o

/-- What phase B does to one record (R124). -/
def serviceAt (c : Config) (cur : Option Nat) (x : Nat) (o : Osc) : Osc :=
  if cur = some x then o.serviced c else o

/-- What phase C does to one record (R102, R103, R201). -/
def writeAt (c : Config) (inp : Inputs) (x : Nat) (o : Osc) : Osc :=
  if inp.writeEnable = true ∧ outOfRange c inp.address = false ∧ inp.address = x then
    (if inp.select then o.stage inp.mask (wfdrValue inp.dataIn) else { o with inc := inp.dataIn })
  else o

theorem writebackPhase_at (w : Option Slot) (osc : List Osc) (x : Nat) :
    (writebackPhase w osc)[x]? = osc[x]?.map (writebackAt w x) := by
  cases w with
  | none =>
    have h : writebackAt none x = id := rfl
    simp [writebackPhase, h]
  | some w =>
    cases hx : osc[x]? <;> cases he : w.en <;>
      simp [writebackPhase, writebackAt, he, hx, List.getElem?_modify]

theorem servicePhase_at (c : Config) (cur : Option Nat) (osc : List Osc) (x : Nat) :
    (servicePhase c cur osc)[x]? = osc[x]?.map (serviceAt c cur x) := by
  cases cur with
  | none => cases hx : osc[x]? <;> simp [servicePhase, serviceAt, hx]
  | some i =>
    cases hx : osc[x]? <;> simp [servicePhase, serviceAt, List.getElem?_modify, hx]

theorem hostWrite_at (c : Config) (inp : Inputs) (osc : List Osc) (x : Nat) :
    (hostWrite c inp osc)[x]? = osc[x]?.map (writeAt c inp x) := by
  unfold hostWrite writeAt
  cases hx : osc[x]? <;> cases hw : inp.writeEnable <;> cases hr : outOfRange c inp.address <;>
    cases hs : inp.select <;> simp [List.getElem?_modify, hx]

/-- The cursor of a tick is the oscillator it services (R121 to R123). -/
theorem serviceCursor_eq_some (s : State) (inp : Inputs) (x : Nat) :
    serviceCursor s.sched inp.update = some x ↔ Services s inp x := by
  unfold serviceCursor Services
  cases s.sched with
  | servicing i => simp
  | idle => cases inp.update <;> simp [eq_comm]

/-- Phase A on one record, in the terms of the landing request (R166). -/
theorem writebackAt_oldest (s : State) (x : Nat) (o : Osc) :
    writebackAt (oldest s.cfg s.pipe) x o =
      { o with sin := s.sinAfterLanding x o, cos := s.cosAfterLanding x o } := by
  unfold writebackAt oldest State.sinAfterLanding State.cosAfterLanding State.landing
  cases s.pipe[s.cfg.D - 1]? with
  | none => rfl
  | some w =>
    cases he : w.en <;> by_cases ht : w.tgt = x <;> simp [ht, he, Osc.accumulate, wrapAdd_eq_add]

/-- The whole of a tick on one record: write-back, then service, then host write (R120). -/
theorem tick_at (inp : Inputs) (s : State) (x : Nat) :
    (tick inp s).osc[x]? = s.osc[x]?.map fun o =>
      writeAt s.cfg inp x (serviceAt s.cfg (serviceCursor s.sched inp.update) x
        (writebackAt (oldest s.cfg s.pipe) x o)) := by
  rw [tick_osc, hostWrite_at, servicePhase_at, writebackPhase_at, Option.map_map, Option.map_map]
  rfl

/-- A tick keeps the number of oscillators. -/
@[simp] theorem tick_osc_length (inp : Inputs) (s : State) : (tick inp s).osc.length = s.osc.length := by
  simp

/-- A tick's request carries nothing, or it comes from the cursor's oscillator, which is on Sine and has no reset
request (R160, R164). -/
theorem requestPhase_cases (c : Config) (cur : Option Nat) (osc : List Osc) :
    requestPhase c cur osc = .empty ∨
      ∃ i o, cur = some i ∧ osc[i]? = some o ∧ issues o.wave o.resetRequest = true ∧
        requestPhase c cur osc = ⟨true, mulSin c o.cos o.inc, mulCos c o.sin o.inc, i⟩ := by
  cases cur with
  | none => exact .inl rfl
  | some i =>
    cases h : osc[i]? with
    | none => left; simp [requestPhase, h]
    | some o =>
      cases hi : issues o.wave o.resetRequest
      · left; simp [requestPhase, h, Osc.request, hi]
      · exact .inr ⟨i, o, rfl, h, hi, by simp [requestPhase, h, Osc.request, hi]⟩

/-! ### The parts of a tick -/

/-- What an operation on the cursor's oscillator can do. -/
theorem onCursor_cases (s : State) (f : Nat → Osc → State) :
    onCursor s f = s ∨ ∃ i o, s.sched = .servicing i ∧ s.osc[i]? = some o ∧ onCursor s f = f i o := by
  unfold onCursor
  cases hs : s.sched with
  | idle => exact .inl rfl
  | servicing i =>
    cases ho : s.osc[i]? with
    | none => left; simp [ho]
    | some o => exact .inr ⟨i, o, rfl, ho, by simp [ho]⟩

/-- An operation on the cursor's oscillator, where there is one. -/
theorem onCursor_eq (s : State) (f : Nat → Osc → State) (i : Nat) (o : Osc)
    (hs : s.sched = .servicing i) (ho : s.osc[i]? = some o) : onCursor s f = f i o := by
  simp [onCursor, hs, ho]

/-- An operation on the addressed oscillator, where there is one. -/
theorem onAddressed_eq (s : State) (f : Osc → State) (o : Osc)
    (hr : s.inp.address < s.cfg.N) (ho : s.osc[s.inp.address]? = some o) : onAddressed s f = f o := by
  simp [onAddressed, outOfRange, Nat.not_le.mpr hr, ho]

/-- What an operation on the addressed oscillator can do. -/
theorem onAddressed_cases (s : State) (f : Osc → State) :
    onAddressed s f = s ∨ ∃ o, s.osc[s.inp.address]? = some o ∧ onAddressed s f = f o := by
  unfold onAddressed
  split
  · exact .inl rfl
  · cases ho : s.osc[s.inp.address]? with
    | none => exact .inl rfl
    | some o => exact .inr ⟨o, rfl, rfl⟩

/-! ### The step -/

/-- What a step can do: reject the word, reject the address, or run the decoded instruction. -/
theorem step_cases (s : State) :
    (∃ e, decode s.fetch = .error e ∧ step s = .refused (.badWord e)) ∨
    (∃ i, decode s.fetch = .ok i ∧ i.wf s.cfg = false ∧ step s = .refused .addressTooWide) ∨
    (∃ i, decode s.fetch = .ok i ∧ i.wf s.cfg = true ∧ step s = exec i s.taken) := by
  unfold step
  cases hd : decode s.fetch with
  | error e => exact .inl ⟨e, rfl, rfl⟩
  | ok i =>
    cases hw : i.wf s.cfg
    · exact .inr (.inl ⟨i, rfl, hw, by simp [hw]⟩)
    · exact .inr (.inr ⟨i, rfl, hw, by simp [hw]⟩)

/-- The host's run, one step unfolded. -/
theorem run_succ (M : Host.Core) (k : Nat) (s : M.State) : M.run (k + 1) s =
    (match M.step s with
      | .next t => M.run k t
      | .fault r => .fault r
      | .refused r => .refused r) := rfl

/-- `steps` is the host's own run of the machine. -/
theorem core_run_eq_steps (k : Nat) (s : State) : Host.Core.run Sys2Proof.core k s = steps k s := by
  induction k generalizing s with
  | zero => rfl
  | succ k ih =>
    have hc : Host.Core.step Sys2Proof.core s = step s := rfl
    refine (run_succ Sys2Proof.core k s).trans ?_
    rw [hc, steps]
    cases step s with
    | next t => exact ih t
    | fault r => rfl
    | refused r => rfl

end Sys2Proof.Machine
end

