-- ==== Sys2Proof/Laws/PerInstr.lean ====
section
/-!
SUPPORT. Statements about every instruction, one lemma for each constructor.
-/
namespace Sys2Proof.Laws

/-- The padding bit of packed inputs is 0 (R71). -/
theorem packHC_padding (u w s : Bool) (m : Nibble) (d : Word) : (packHC u w s m d).getLsbD 23 = false := by
  simp only [packHC, BitVec.getLsbD_append]; simp

end Sys2Proof.Laws

namespace Sys2Proof.Laws.EncodeShape

/-- The word of an instruction, where it has one, leaves the padding bit 0 and carries the instruction's address
(30_encoding.md R70, R71). -/
def Statement (i : Instr) : Prop :=
  ∀ w, encode i = some w → w.hc.getLsbD 23 = false ∧ i.portAddress = some w.address

theorem nowrite (u : Bool) (a : Nat) : Statement (.nowrite u a) := by
  intro x h; cases h; exact ⟨packHC_padding _ _ _ _ _, rfl⟩
theorem wrpinc (u : Bool) (a : Nat) (imm16 : Word) : Statement (.wrpinc u a imm16) := by
  intro x h; cases h; exact ⟨packHC_padding _ _ _ _ _, rfl⟩
theorem wrwfdr (u : Bool) (a : Nat) (m : Nibble) (v : Nibble) : Statement (.wrwfdr u a m v) := by
  intro x h; cases h; exact ⟨packHC_padding _ _ _ _ _, rfl⟩
theorem update (w : Bool) (sel : Bool) (m : Nibble) (d : Word) (a : Nat) : Statement (.update w sel m d a) := by
  intro x h; cases h; exact ⟨packHC_padding _ _ _ _ _, rfl⟩
theorem read (a : Nat) : Statement (.read a) := by
  intro x h; cases h
theorem configure (count : Nat) (delay : Nat) (addrW : Nat) (fracBits : Nat) (mulShift : Nat) : Statement (.configure count delay addrW fracBits mulShift) := by
  intro x h; cases h
theorem resetosc (u : Bool) (a : Nat) : Statement (.resetosc u a) := by
  intro x h; cases h; exact ⟨packHC_padding _ _ _ _ _, rfl⟩
theorem setwave (u : Bool) (a : Nat) (W : Waveform) : Statement (.setwave u a W) := by
  intro x h; cases h; exact ⟨packHC_padding _ _ _ _ _, rfl⟩
theorem setdir (u : Bool) (a : Nat) (d : Bool) : Statement (.setdir u a d) := by
  intro x h; cases h; exact ⟨packHC_padding _ _ _ _ _, rfl⟩
theorem setwdr (u : Bool) (a : Nat) (W : Waveform) (d : Bool) (r : Bool) : Statement (.setwdr u a W d r) := by
  intro x h; cases h; exact ⟨packHC_padding _ _ _ _ _, rfl⟩
theorem sweep : Statement .sweep := by
  intro x h; cases h
theorem wait (k : Nat) : Statement (.wait k) := by
  intro x h; cases h
theorem tick : Statement .tick := by
  intro x h; cases h
theorem sweepStart : Statement .sweepStart := by
  intro x h; cases h
theorem sweepAdvance : Statement .sweepAdvance := by
  intro x h; cases h
theorem retriggerIgnored : Statement .retriggerIgnored := by
  intro x h; cases h
theorem service : Statement .service := by
  intro x h; cases h
theorem phaseAdvance : Statement .phaseAdvance := by
  intro x h; cases h
theorem triangleFlip : Statement .triangleFlip := by
  intro x h; cases h
theorem resetRequest : Statement .resetRequest := by
  intro x h; cases h
theorem mergeWave : Statement .mergeWave := by
  intro x h; cases h
theorem mergeDir : Statement .mergeDir := by
  intro x h; cases h
theorem oscReset : Statement .oscReset := by
  intro x h; cases h
theorem maskClear : Statement .maskClear := by
  intro x h; cases h
theorem merge : Statement .merge := by
  intro x h; cases h
theorem issue : Statement .issue := by
  intro x h; cases h
theorem mulsin : Statement .mulsin := by
  intro x h; cases h
theorem mulcos : Statement .mulcos := by
  intro x h; cases h
theorem noIssue : Statement .noIssue := by
  intro x h; cases h
theorem shift : Statement .shift := by
  intro x h; cases h
theorem writeback : Statement .writeback := by
  intro x h; cases h
theorem decode : Statement .decode := by
  intro x h; cases h
theorem decodeSine : Statement .decodeSine := by
  intro x h; cases h
theorem decodeRamp : Statement .decodeRamp := by
  intro x h; cases h
theorem decodeTriangle : Statement .decodeTriangle := by
  intro x h; cases h
theorem decodeSquare : Statement .decodeSquare := by
  intro x h; cases h

end Sys2Proof.Laws.EncodeShape
end

