-- ==== Sys2Proof/Laws/Tick.lean ====
section
/-!
SUPPORT. More lemmas on the parts of a tick: bits of a masked replace, the sum as a number, the host write on one record,
the pipeline's slots, the decoded output, idle ticks and runs of instructions.
-/
namespace Sys2Proof.Machine

/-! ### Words -/

/-- A masked replace takes each masked bit from the value and keeps the others (R103, R141). -/
theorem maskedReplace_bit {n : Nat} (old m v : BitVec n) (k : Nat) (h : k < n) :
    (maskedReplace old m v).getLsbD k = if m.getLsbD k then v.getLsbD k else old.getLsbD k := by
  simp [maskedReplace, h]; cases m[k] <;> simp

/-- The sum of a record as a number (R125). -/
theorem Osc.sum_toNat (o : Osc) :
    o.sum.toNat = o.acc.toNat + (if o.wave = 0b10 then 2 * o.inc.toNat else o.inc.toNat) := by
  rw [Osc.sum, phaseSum_toNat, phaseStep_toNat]; rfl

/-- The condition of an issue (R160). -/
theorem issues_eq_true (wave : WaveCode) (rr : Bool) :
    issues wave rr = true ↔ wave = 0b11 ∧ rr = false := by
  show (decide (wave = Waveform.sine.code) && !rr) = true ↔ wave = Waveform.sine.code ∧ rr = false
  simp

/-- The output of a record, by its waveform (R180 to R184). -/
theorem Osc.output_eq (o : Osc) (W : Waveform) (h : o.wave = W.code) :
    o.output = match W with
      | .ramp => negateIf o.dir o.acc
      | .square => squareLevel o.dir o.acc
      | .triangle => negateIf o.dir o.acc
      | .sine => o.sin := by
  have hw : Waveform.ofCode o.wave = W := by rw [h]; cases W <;> rfl
  rw [Osc.output, hw]
  cases W <;> rfl

/-! ### The host write on one record -/

@[simp] theorem writeAt_acc (c : Config) (p : Inputs) (x : Nat) (o : Osc) : (writeAt c p x o).acc = o.acc := by
  unfold writeAt; split <;> (try split) <;> rfl
@[simp] theorem writeAt_wave (c : Config) (p : Inputs) (x : Nat) (o : Osc) : (writeAt c p x o).wave = o.wave := by
  unfold writeAt; split <;> (try split) <;> rfl
@[simp] theorem writeAt_dir (c : Config) (p : Inputs) (x : Nat) (o : Osc) : (writeAt c p x o).dir = o.dir := by
  unfold writeAt; split <;> (try split) <;> rfl
@[simp] theorem writeAt_sin (c : Config) (p : Inputs) (x : Nat) (o : Osc) : (writeAt c p x o).sin = o.sin := by
  unfold writeAt; split <;> (try split) <;> rfl
@[simp] theorem writeAt_cos (c : Config) (p : Inputs) (x : Nat) (o : Osc) : (writeAt c p x o).cos = o.cos := by
  unfold writeAt; split <;> (try split) <;> rfl

/-- A tick without a write leaves every record as the service left it (R101). -/
theorem writeAt_of_no_write (c : Config) (p : Inputs) (x : Nat) (o : Osc) (h : p.writeEnable = false) :
    writeAt c p x o = o := by
  simp [writeAt, h]

/-! ### The pipeline and the scheduler -/

/-- Slot 0 after a shift (R165). -/
theorem shiftPhase_zero (c : Config) (req : Slot) (pipe : List Slot) (h : 0 < c.D) :
    (shiftPhase c req pipe)[0]? = some req := by
  simp [shiftPhase, h]

/-- Every other slot after a shift (R165). -/
theorem shiftPhase_succ (c : Config) (req : Slot) (pipe : List Slot) (k : Nat) (h : k + 1 < c.D) :
    (shiftPhase c req pipe)[k + 1]? = pipe[k]? := by
  simp [shiftPhase, h]

/-- The scheduler after a tick is in range (R31, R122). -/
theorem nextSched_inRange (c : Config) (cur : Option Nat) : (nextSched c cur).inRange c = true := by
  unfold nextSched
  split
  · split
    · simpa [Sched.inRange]
    · rfl
  · rfl

/-! ### Lists of records and runs of instructions -/

/-- Modifying an entry that is there is setting it. -/
theorem modify_eq_set (l : List Osc) (i : Nat) (o : Osc) (f : Osc → Osc) (h : l[i]? = some o) :
    l.modify i f = l.set i (f o) := by
  apply List.ext_getElem?
  intro j
  rw [List.getElem?_modify, List.getElem?_set]
  by_cases hj : i = j
  · subst hj
    obtain ⟨hl, hg⟩ := List.getElem?_eq_some_iff.1 h
    simp [hl, hg]
  · simp [hj]

/-- Idle ticks keep the parameters and the script. -/
theorem idleTicks_frame (k : Nat) (s : State) :
    (idleTicks k s).cfg = s.cfg ∧ (idleTicks k s).script = s.script := by
  induction k generalizing s with
  | zero => exact ⟨rfl, rfl⟩
  | succ k ih => exact ih _

/-- A run of instructions, its first one taken off. -/
theorem execAll_cons (i : Instr) (l : List Instr) (s t : State) (h : exec i s = .next t) :
    execAll (i :: l) s = execAll l t := by
  simp [execAll, h]

/-- `k` steps and one more. -/
theorem steps_succ_of_step (k : Nat) (s t u : State) (h : steps k s = .next t) (hu : step t = .next u) :
    steps (k + 1) s = .next u := by
  induction k generalizing s with
  | zero => cases h; simp [steps, hu]
  | succ k ih =>
    rw [steps] at h ⊢
    cases hs : step s with
    | next s' => rw [hs] at h; exact ih s' h
    | fault r => rw [hs] at h; cases h
    | refused r => rw [hs] at h; cases h

end Sys2Proof.Machine
end

