-- ==== Sys2Proof/Tests/Slice0.lean ====
section
/-!
SUPPORT. Small tests, each one step or one operation with the result taken from spec/95_test_vectors.md or from the rule
it names, and a witness for each statement that has hypotheses.
-/
namespace Sys2Proof.Tests
open Sys2Proof.Machine

/-! ### Helpers -/

/-- A bank of one oscillator `o` with D = 1 and the default scalings. -/
def bank1 (o : Osc) : State := { State.construct ⟨1, 1, 1, 14, 16⟩ [] with osc := [o] }

/-- `bank1` under service. -/
def busy1 (o : Osc) : State := { bank1 o with sched := .servicing 0 }

/-- Two oscillators, ADDR_W = 2 (95 section 2.2). -/
def bank2 : State := .construct ⟨2, 2, 2, 14, 16⟩ []

/-- The state after an instruction, if there is one. -/
def after (i : Instr) (s : State) : Option State :=
  match exec i s with
  | .next t => some t
  | .fault _ | .refused _ => none

/-- The first oscillator after an instruction. -/
def osc0 (i : Instr) (s : State) : Option Osc := (after i s).bind (·.osc[0]?)

/-- `data_out` after an instruction. -/
def shown (i : Instr) (s : State) : Option ReadResult := (after i s).map (·.out.dataOut)

/-- A record with the given phase fields, nothing staged, at construction's pair. -/
def phased (inc acc : Word) (wave : WaveCode) (dir : Bool) : Osc := ⟨inc, acc, wave, dir, 0, 0x4000, 0, 0⟩

/-- The record of 95 section 2.5 before the merge. -/
def merging (wave : WaveCode) (dir : Bool) (pmask pval : Nibble) : Osc :=
  ⟨0, 0x1234, wave, dir, 0x0100, 0x3F00, pval, pmask⟩

/-- A sine oscillator with the pair of 95 section 2.6 in `cos` and `sin`. -/
def sined (inc sin cos : Word) : Osc := ⟨inc, 0, 0b11, false, sin, cos, 0, 0⟩

/-! ### Well-formedness: what no port carries is refused -/

theorem test_wf_address_refused : (Instr.wrpinc false 4 0).wf Config.default = false := by decide
theorem test_wf_address_last : (Instr.wrpinc false 3 0).wf Config.default = true := by decide
theorem test_wf_read_refused : (Instr.read 4).wf Config.default = false := by decide
theorem test_step_refuses_wide_address :
    (match step { State.reset with script := [⟨0x204000, 4⟩] } with
      | .refused .addressTooWide => true
      | _ => false) = true := by decide
theorem test_step_refuses_padding_bit :
    (match step { State.reset with script := [⟨0x800000, 0⟩] } with
      | .refused (.badWord .paddingBitSet) => true
      | _ => false) = true := by decide

/-! ### Decoding: words written from 30_encoding.md R71 to R82 and the programs of 95 part 3 -/

theorem test_decode_nowrite : decode ⟨0b0_0_0_0_0000_0000000000000000, 1⟩ = .ok (.nowrite false 1) := by decide
theorem test_decode_nowrite_ignores : decode ⟨0b0_0_0_1_1111_1010101010101010, 1⟩ = .ok (.nowrite false 1) := by decide
theorem test_decode_wrpinc : decode ⟨0b0_0_1_0_0000_0100000000000000, 0⟩ = .ok (.wrpinc false 0 0x4000) := by decide
theorem test_decode_wrpinc_update : decode ⟨0b0_1_1_0_0000_0001000100010001, 3⟩ = .ok (.wrpinc true 3 0x1111) := by decide
theorem test_decode_wrwfdr : decode ⟨0b0_0_1_1_0110_0000000000000110, 1⟩ = .ok (.wrwfdr false 1 0b0110 0b0110) := by decide
theorem test_decode_update : decode ⟨0b0_1_0_0_0000_0000000000000000, 0⟩ = .ok (.update false false 0 0 0) := by decide
theorem test_decode_resetosc : decode ⟨0b0_0_1_1_0001_0000000000000001, 1⟩ = .ok (.resetosc false 1) := by decide
theorem test_decode_setwave : decode ⟨0b0_0_1_1_1100_0000000000001000, 0⟩ = .ok (.setwave false 0 .triangle) := by decide
theorem test_decode_setwave_update : decode ⟨0x7C0004, 1⟩ = .ok (.setwave true 1 .square) := by decide
theorem test_decode_setdir : decode ⟨0b0_0_1_1_0010_0000000000000010, 0⟩ = .ok (.setdir false 0 true) := by decide
theorem test_decode_setwdr : decode ⟨0b0_0_1_1_1111_0000000000001101, 0⟩ = .ok (.setwdr false 0 .sine false true) := by decide
theorem test_decode_padding : decode ⟨0x800000, 0⟩ = .error .paddingBitSet := by decide
theorem test_table_word_wrpinc : decodeTableWord 24 0x204000 = some (.wrpinc false 0 0x4000) := by decide
theorem test_table_word_address : decodeTableWord 26 0x1360006 = some (.wrwfdr false 1 0b0110 0b0110) := by decide
theorem test_encode_update_wrpinc : encode (.wrpinc true 3 0x1111) = some ⟨0x601111, 3⟩ := by decide
theorem test_encode_setwdr : encode (.setwdr false 0 .sine false true) = some ⟨0x3F000D, 0⟩ := by decide
theorem test_encode_read_none : encode (.read 0) = none := by decide
theorem test_encode_internal_none : encode .service = none := by decide
theorem test_withFetchWord_runs :
    step (State.reset.withFetchWord 24 0x204000) = exec (.wrpinc false 0 0x4000) State.reset := by rfl
/-- Waveform codes (R78). -/
theorem test_waveform_codes : (Waveform.ramp.code, Waveform.square.code, Waveform.triangle.code, Waveform.sine.code) =
    (0b00, 0b01, 0b10, 0b11) := by decide

/-! ### Assembler lines (30_encoding.md R81, R82; 95 programs P2 to P4) -/

theorem test_line_update_wrpinc :
    assembleLine 2 "t2: UPDATE | WRPINC 3, 0x1111 ; werr".toList = .ok [⟨0x601111, 3⟩] := by decide
theorem test_line_setwdr : assembleLine 1 "SETWDR 0, SINE, 0, 1".toList = .ok [⟨0x3F000D, 0⟩] := by decide
theorem test_line_sweep : assembleLine 3 "SWEEP".toList = .ok [⟨0x400000, 0⟩, ⟨0, 0⟩, ⟨0, 0⟩] := by decide
theorem test_line_wait : assembleLine 3 "WAIT 2".toList = .ok [⟨0, 0⟩, ⟨0, 0⟩] := by decide
theorem test_line_two_writes :
    assembleLine 2 "WRPINC 0, 1 | WRPINC 1, 1".toList = .error .twoWrites := by decide

/-! ### CONFIGURE (95 section 2.1) -/

theorem test_configure_zero_count :
    (match exec (.configure 0 1 1 14 16) State.reset with
      | .fault .configError => true
      | _ => false) = true := by decide
theorem test_configure_builds : (after (.configure 3 4 2 14 16) State.reset).map (fun t => (t.osc, t.pipe, t.sched)) =
    some (List.replicate 3 ⟨0, 0, 0, false, 0, 0x4000, 0, 0⟩, List.replicate 4 .empty, .idle) := by decide

/-! ### Writes (95 section 2.2) -/

theorem test_nowrite_out_of_range :
    (after (.nowrite false 3) bank2).map (fun t => (t.osc, t.out.writeError, t.out.readError)) =
      some (bank2.osc, false, true) := by decide
theorem test_wrpinc_immediate : (after (.wrpinc false 1 0xABCD) bank2).bind (·.osc[1]?) =
    some (phased 0xABCD 0 0 false) := by decide
theorem test_wrpinc_out_of_range :
    (after (.wrpinc false 2 0xABCD) bank2).map (fun t => (t.osc, t.out.writeError)) = some (bank2.osc, true) := by decide
theorem test_wrwfdr_replaces : (osc0 (.wrwfdr false 0 0b1100 0b0100) (bank1 (merging 0 false 0b1100 0b1100))).map
    (fun o => (o.pval, o.pmask)) = some (0b0100, 0b1100) := by decide
theorem test_wrwfdr_in_service_tick : (osc0 (.wrwfdr true 0 0b0010 0b0010) (bank1 (merging 0 false 1 1))).map
    (fun o => (o.acc, o.pval, o.pmask)) = some (0, 0b0011, 0b0010) := by decide
theorem test_wrpinc_in_service_tick : (osc0 (.wrpinc true 0 0x1000) (bank1 (phased 0x0010 0x0100 0 false))).map
    (fun o => (o.acc, o.inc)) = some (0x0110, 0x1000) := by decide
theorem test_resetosc_stages : (osc0 (.resetosc false 0) (bank1 (merging 0 false 0 0b0110))).map
    (fun o => (o.pval, o.pmask)) = some (0b0111, 0b0001) := by decide
theorem test_setwave_stages : (osc0 (.setwave false 0 .triangle) (bank1 (merging 0 false 0 0b0101))).map
    (fun o => (o.pval, o.pmask)) = some (0b1001, 0b1100) := by decide
theorem test_setdir_stages : (osc0 (.setdir false 0 false) (bank1 (merging 0 false 0 0b1111))).map
    (fun o => (o.pval, o.pmask)) = some (0b1101, 0b0010) := by decide
theorem test_setwdr_stages : (osc0 (.setwdr false 0 .sine false true) (bank1 (merging 0 false 0 0))).map
    (fun o => (o.pval, o.pmask)) = some (0b1101, 0b1111) := by decide

/-! ### UPDATE, SWEEP, WAIT and the scheduler (95 section 2.3) -/

theorem test_update_starts : (after (.update false false 0 0 0) State.reset).map (·.sched) = some (.servicing 1) := by decide
theorem test_update_ignored :
    (after (.update false false 0 0 0) { State.reset with sched := .servicing 2 }).map (·.sched) = some .idle := by decide
theorem test_sweep_ends_idle : (after .sweep State.reset).map (·.sched) = some .idle := by decide
theorem test_wait_finishes : (after (.wait 2) { State.reset with sched := .servicing 1 }).map (·.sched) = some .idle := by decide
theorem test_sweep_start : (after .sweepStart { State.reset with inp := .pulse false false 0 0 0 }).map (·.sched) =
    some (.servicing 0) := by decide
theorem test_sweep_advance_last : (after .sweepAdvance { State.reset with sched := .servicing 2 }).map (·.sched) =
    some .idle := by decide
theorem test_retrigger_ignored :
    after .retriggerIgnored { State.reset with sched := .servicing 1, inp := .pulse false false 0 0 0 } =
      some { State.reset with sched := .servicing 1, inp := .pulse false false 0 0 0 } := by decide

/-! ### Phase (95 section 2.4) -/

theorem test_phase_double_wrap : (after .phaseAdvance (busy1 (phased 0xFFFF 0xFFFF 0b10 false))).map
    (fun t => ((t.osc[0]?).map (·.acc), t.sig.ovf)) = some (some 0xFFFD, false) := by decide
theorem test_phase_sine_step : (after .phaseAdvance (busy1 (phased 0xFFFF 0xFFFF 0b11 true))).map
    (fun t => ((t.osc[0]?).map (·.acc), t.sig.ovf)) = some (some 0xFFFE, true) := by decide
theorem test_triangle_flips : (osc0 .service (busy1 (phased 0x6000 0xC000 0b10 false))).map (fun o => (o.acc, o.dir)) =
    some (0x8000, true) := by decide
theorem test_triangle_flip_needs_overflow :
    (osc0 .triangleFlip (busy1 (phased 0x4000 0xFFFF 0b10 true))).map (·.dir) = some true := by decide
theorem test_service_ramp_no_flip : (osc0 .service (busy1 (phased 0x0001 0xFFFF 0b00 false))).map
    (fun o => (o.acc, o.dir)) = some (0, false) := by decide

/-! ### Merge (95 section 2.5) -/

theorem test_reset_request : (after .resetRequest (busy1 (merging 0b11 false 0b0001 0b0001))).map (·.sig.rr) =
    some true := by decide
theorem test_reset_request_cancelled : (after .resetRequest (busy1 (merging 0b11 false 0b0001 0b0000))).map (·.sig.rr) =
    some false := by decide
theorem test_merge_wave_one_bit : (osc0 .mergeWave (busy1 (merging 0b11 true 0b0100 0b0000))).map (·.wave) =
    some 0b10 := by decide
theorem test_merge_dir_overrides : (osc0 .mergeDir (busy1 (merging 0b10 true 0b0010 0b0000))).map (·.dir) =
    some false := by decide
theorem test_osc_reset_negative :
    (osc0 .oscReset { busy1 (merging 0b11 true 1 1) with sig := { Signals.idle with rr := true } }).map
      (fun o => (o.acc, o.sin, o.cos)) = some (0, 0, 0xC000) := by decide
theorem test_mask_clear : (osc0 .maskClear (busy1 (merging 0b11 true 0b1111 0b1010))).map (fun o => (o.pmask, o.pval)) =
    some (0, 0b1010) := by decide
theorem test_merge_reset_with_staged_dir : osc0 .merge (busy1 (merging 0b11 false 0b0011 0b0011)) =
    some ⟨0, 0, 0b11, true, 0, 0xC000, 0b0011, 0⟩ := by decide
theorem test_merge_unmasked_wave : osc0 .merge (busy1 (merging 0b01 true 0b0001 0b1111)) =
    some ⟨0, 0, 0b01, true, 0, 0xC000, 0b1111, 0⟩ := by decide

/-! ### The sine engine (95 sections 2.6 and 2.7) -/

theorem test_mulsin_signed : (after .mulsin (busy1 (sined 0xFFFF 0 0x8000))).map (·.sig.sp) = some 0x8000 := by decide
theorem test_mulsin_floor : (after .mulsin (busy1 (sined 1 0 0xFFFF))).map (·.sig.sp) = some 0xFFFF := by decide
theorem test_mulcos_floor_after_negation : (after .mulcos (busy1 (sined 1 1 0))).map (·.sig.cp) = some 0xFFFF := by decide
theorem test_mulcos_most_negative : (after .mulcos (busy1 (sined 0xFFFF 0x8000 0))).map (·.sig.cp) = some 0x7FFF := by decide
theorem test_issue_request : (after .issue (busy1 (sined 0x0800 0x0200 0x4000))).map (·.sig.req) =
    some ⟨true, 0x0200, 0xFFF0, 0⟩ := by decide
theorem test_service_to_sine_issues_nothing :
    (after .service (busy1 (merging 0b00 false 0b1100 0b1100))).map (·.sig.req.en) = some false := by decide
theorem test_no_issue_idle : (after .noIssue { bank1 (sined 1 1 1) with sig := ⟨false, false, 0, 0, ⟨true, 1, 1, 0⟩⟩ }).map
    (·.sig.req) = some .empty := by decide
theorem test_shift_three : (after .shift { State.construct ⟨1, 3, 1, 14, 16⟩ [] with
    pipe := [⟨true, 1, 1, 0⟩, ⟨true, 2, 2, 0⟩, ⟨true, 3, 3, 0⟩], sig := ⟨false, false, 0, 0, ⟨true, 4, 4, 0⟩⟩ }).map
    (·.pipe) = some [⟨true, 4, 4, 0⟩, ⟨true, 1, 1, 0⟩, ⟨true, 2, 2, 0⟩] := by decide
theorem test_writeback_wraps : (osc0 .writeback { bank1 (sined 0 0x7FFF 0x8000) with pipe := [⟨true, 1, 0xFFFF, 0⟩] }).map
    (fun o => (o.sin, o.cos)) = some (0x8000, 0x7FFF) := by decide
/-- Write-back and reset in one tick (95 section 2.7, spec decision D2). -/
theorem test_tick_reset_beats_writeback :
    (after .tick { bank1 ⟨0x0800, 0x1000, 0b11, false, 0x0400, 0x3FF0, 1, 1⟩ with
      pipe := [⟨true, 0x01FF, 0xFFE0, 0⟩], inp := .pulse false false 0 0 0 }).map
      (fun t => ((t.osc[0]?).map (fun o => (o.sin, o.cos, o.acc)), t.pipe)) =
    some (some (0, 0x4000, 0), [.empty]) := by decide
/-- Program P3, tick t5: the write-back of t4 lands before the issue (95 part 3). -/
theorem test_tick_forwards :
    (after (.update false false 0 0 0) { bank1 ⟨0x0800, 0x1000, 0b11, false, 0x0200, 0x4000, 0b1101, 0⟩ with
      pipe := [⟨true, 0x0200, 0xFFF0, 0⟩] }).map
      (fun t => ((t.osc[0]?).map (fun o => (o.acc, o.sin, o.cos)), t.pipe)) =
    some (some (0x1800, 0x0400, 0x3FF0), [⟨true, 0x01FF, 0xFFE0, 0⟩]) := by decide

/-! ### Output decode and READ (95 section 2.8) -/

theorem test_decode_ramp : shown .decodeRamp (bank1 (phased 0 0xFFFF 0b00 true)) = some (.ok 0x0001) := by decide
theorem test_decode_triangle : shown .decodeTriangle (bank1 (phased 0 0x4000 0b10 true)) = some (.ok 0xC000) := by decide
theorem test_decode_square : shown .decodeSquare (bank1 (phased 0 0x0000 0b01 true)) = some (.ok 0x8000) := by decide
theorem test_decode_sine : shown .decodeSine (bank1 (sined 0 0x8001 0)) = some (.ok 0x8001) := by decide
theorem test_decode_by_wave : shown .decode (bank1 (phased 0 0x8000 0b01 true)) = some (.ok 0x0000) := by decide
theorem test_read_ramp_most_negative : shown (.read 0) (bank1 (phased 0 0x8000 0b00 true)) = some (.ok 0x8000) := by decide
theorem test_read_out_of_range : (after (.read 2) bank2).map (fun t => (t.out.dataOut, t.out.readError, t.osc)) =
    some (.outOfRange, true, bank2.osc) := by decide

/-! ### The reset state (R100, R220; the parameters are log entry 2's) -/

theorem test_reset_bank : (State.reset.osc, State.reset.pipe, State.reset.sched) =
    (List.replicate 3 ⟨0, 0, 0, false, 0, 0x4000, 0, 0⟩, List.replicate 2 ⟨false, 0, 0, 0⟩, .idle) := by decide
theorem test_reset_idles : (match step State.reset with
    | .next t => decide (t.osc = State.reset.osc ∧ t.sched = .idle)
    | _ => false) = true := by decide

/-! ### Witnesses: for each statement with hypotheses, a state and operands that meet them together -/

/-- A ready state for the witnesses: oscillator 1 on Sine under service, everything staged, a request due to land on it. -/
def wit : State :=
  { State.reset with
    osc := [phased 0x1000 0xF800 0b10 false, ⟨0x0800, 0x1234, 0b11, true, 0x0100, 0x3F00, 0b1001, 0b1111⟩,
      phased 0x3000 0xF000 0b00 true]
    pipe := [⟨false, 0, 0, 0⟩, ⟨true, 5, 7, 1⟩]
    sched := .servicing 1 }

/-- `wit` with oscillator 1 having no reset request. -/
def witSine : State := wit.setOsc 1 (sined 0x0800 0x0100 0x3F00)

theorem witness_StepRunsDecodedInstruction :
    decode (State.fetch { wit with script := [⟨0x204000, 3⟩] }) = .ok (.wrpinc false 3 0x4000) ∧
      (Instr.wrpinc false 3 0x4000).wf wit.cfg = true := by decide
theorem witness_DecodeInvertsEncode :
    ¬ ((0b0110 : Nibble) = 0b0001 ∧ (0b0110 : Nibble) = 0b0001) ∧
    ¬ ((0b0110 : Nibble) = 0b1100 ∧ (0b0110 : Nibble).getLsbD 0 = false ∧ (0b0110 : Nibble).getLsbD 1 = false) ∧
    ¬ ((0b0110 : Nibble) = 0b0010 ∧ (0b0110 : Nibble).getLsbD 0 = false ∧ (0b0110 : Nibble).getLsbD 2 = false ∧
      (0b0110 : Nibble).getLsbD 3 = false) ∧ (0b0110 : Nibble) ≠ 0b1111 := by decide
theorem witness_EncodedWordKeepsItsEffect : encode (.wrwfdr true 2 0b0010 0b0010) = some ⟨0x720002, 2⟩ := by decide
theorem witness_EveryWordRunsThePortTick : (HostWord.mk 0x7FFFFF 3).hc.getLsbD 23 = false := by decide
theorem witness_IgnoredInputsHaveNoEffect :
    let p : Inputs := ⟨true, true, true, 0b0110, 0x0006, 1⟩
    let q : Inputs := ⟨true, true, true, 0b0110, 0xFFF6, 1⟩
    p.update = q.update ∧ p.writeEnable = q.writeEnable ∧ p.address = q.address ∧
      (p.writeEnable = true → p.select = q.select) ∧
      (p.writeEnable = true → p.select = true → p.mask = q.mask ∧
        ∀ k < 4, p.dataIn.getLsbD k = q.dataIn.getLsbD k) ∧
      (p.writeEnable = true → p.select = false → p.dataIn = q.dataIn) := by decide
theorem witness_IgnoredInputsHaveNoEffect_no_write :
    let p : Inputs := ⟨true, false, true, 0b0110, 0x0006, 1⟩
    let q : Inputs := ⟨true, false, false, 0b1001, 0xFFF9, 1⟩
    p.update = q.update ∧ p.writeEnable = q.writeEnable ∧ p.address = q.address ∧
      (p.writeEnable = true → p.select = q.select) ∧
      (p.writeEnable = true → p.select = true → p.mask = q.mask ∧
        ∀ k < 4, p.dataIn.getLsbD k = q.dataIn.getLsbD k) ∧
      (p.writeEnable = true → p.select = false → p.dataIn = q.dataIn) := by decide
theorem witness_ConfigureConstructsTheBank :
    5 ≠ 0 ∧ 1 ≠ 0 ∧ max 1 (Nat.clog 2 5) ≤ 3 ∧ 14 ≤ 14 ∧ 31 ≤ 31 := by decide
theorem witness_ConfigErrorExactlyOnBadParameters : 2 < max 1 (Nat.clog 2 5) ∧ 0 < max 1 (Nat.clog 2 1) := by decide
theorem witness_NowriteWritesNothing :
    wit.osc[2]? = some (phased 0x3000 0xF000 0b00 true) ∧ ¬ Services wit ⟨true, false, false, 0, 0, 0⟩ 2 := by decide
theorem witness_WrpincWritesTheIncrement : 2 < wit.cfg.N ∧ wit.cfg.N ≤ 3 ∧ wit.osc[2]?.isSome = true := by decide
theorem witness_WrwfdrStagesTheMaskedBits :
    2 < wit.cfg.N ∧ (tick (.nowrite false 2) wit).osc[2]?.isSome = true ∧ wit.cfg.N ≤ 3 := by decide
theorem witness_OutOfRangeWriteIsDropped : wit.cfg.N ≤ 3 := by decide
theorem witness_ReadShowsTheDecodedOutput :
    2 < wit.cfg.N ∧ wit.osc[2]? = some (phased 0x3000 0xF000 0b00 true) ∧ wit.cfg.N ≤ 3 := by decide
theorem witness_UpdateFromIdleStartsTheSweep : State.reset.sched = .idle := by decide
theorem witness_UpdateDuringSweepHasNoEffect : wit.sched = .servicing 1 := by decide
theorem witness_TickMovesTheScheduler :
    Services wit wit.inp 1 ∧ Services { State.reset with inp := .pulse false false 0 0 0 } (.pulse false false 0 0 0) 0 ∧
      State.reset.sched = .idle ∧ State.reset.inp.update = false := by decide
/-- The tick writes oscillator 2, the last one; oscillator 1 is not addressed. -/
theorem witness_IdleTickServicesNothing :
    let s : State := { State.reset with inp := .wrwfdr false 2 0b1111 0b0101 }
    s.sched = .idle ∧ s.inp.update = false ∧ 0 < s.cfg.D ∧ s.osc[2]?.isSome = true ∧ s.osc[1]?.isSome = true ∧
      ¬ (s.inp.writeEnable = true ∧ s.inp.address = 1 ∧ 1 < s.cfg.N) := by decide
theorem witness_TickAccumulator :
    (∃ o, wit.osc[1]? = some o ∧ Services wit wit.inp 1 ∧ (o.pmask.getLsbD 0 && o.pval.getLsbD 0) = true) ∧
    (∃ o, witSine.osc[1]? = some o ∧ Services witSine witSine.inp 1 ∧
      (o.pmask.getLsbD 0 && o.pval.getLsbD 0) = false) ∧
    (∃ o, wit.osc[0]? = some o ∧ ¬ Services wit wit.inp 0) :=
  ⟨⟨_, rfl, by decide, by decide⟩, ⟨_, rfl, by decide, by decide⟩, ⟨_, rfl, by decide⟩⟩
theorem witness_TickDirection :
    (∃ o, wit.osc[1]? = some o ∧ Services wit wit.inp 1 ∧ o.pmask.getLsbD 1 = true) ∧
    (∃ o, witSine.osc[1]? = some o ∧ Services witSine witSine.inp 1 ∧ o.pmask.getLsbD 1 = false ∧ o.wave ≠ 0b10) ∧
    (∃ o, { wit with sched := .servicing 0 }.osc[0]? = some o ∧ Services { wit with sched := .servicing 0 } wit.inp 0 ∧
      o.pmask.getLsbD 1 = false ∧ o.wave = 0b10) :=
  ⟨⟨_, rfl, by decide, by decide⟩, ⟨_, rfl, by decide, by decide, by decide⟩, ⟨_, rfl, by decide, by decide, by decide⟩⟩
theorem witness_TickSineAndCosine :
    (∃ o, wit.osc[1]? = some o ∧ Services wit wit.inp 1 ∧ (o.pmask.getLsbD 0 && o.pval.getLsbD 0) = true ∧
      0 < wit.cfg.D ∧ wit.inp.writeEnable = false) ∧
    (∃ o, witSine.osc[1]? = some o ∧ Services witSine witSine.inp 1 ∧
      (o.pmask.getLsbD 0 && o.pval.getLsbD 0) = false) ∧
    (∃ o, wit.osc[0]? = some o ∧ ¬ (Services wit wit.inp 0 ∧ (o.pmask.getLsbD 0 && o.pval.getLsbD 0) = true)) :=
  ⟨⟨_, rfl, by decide, by decide, by decide, by decide⟩, ⟨_, rfl, by decide, by decide⟩, ⟨_, rfl, by decide⟩⟩
/-- The waveform clause of `TickSineAndCosine`: a reset request staged alone. -/
theorem witness_TickSineAndCosine_wave_unmasked :
    let s := busy1 (merging 0b11 true 0b0001 0b0001)
    Services s s.inp 0 ∧ ∃ o, s.osc[0]? = some o ∧ (o.pmask.getLsbD 0 && o.pval.getLsbD 0) = true ∧
      o.pmask.getLsbD 2 = false ∧ o.pmask.getLsbD 3 = false :=
  ⟨by decide, _, rfl, by decide, by decide, by decide⟩
theorem witness_TickWaveformAndStaging :
    wit.osc[1]?.isSome = true ∧ Services wit wit.inp 1 ∧ wit.osc[0]?.isSome = true ∧ ¬ Services wit wit.inp 0 := by decide
theorem witness_TickIncrement : wit.osc[1]?.isSome = true := by decide
theorem witness_TickPipeline :
    witSine.Inv ∧ 0 + 1 < witSine.cfg.D ∧
    (∃ o, witSine.osc[1]? = some o ∧ Services witSine witSine.inp 1 ∧ o.wave = 0b11 ∧
      (o.pmask.getLsbD 0 && o.pval.getLsbD 0) = false) :=
  ⟨by decide, by decide, _, rfl, by decide, by decide, by decide⟩
theorem witness_TickPipeline_no_request : State.reset.Inv ∧ ∀ x, ¬ Services State.reset State.reset.inp x :=
  ⟨by decide, fun x h => by rcases h with h | ⟨_, h, _⟩ <;> cases h⟩
theorem witness_SweepStateMachine :
    ({ State.reset with inp := .pulse false false 0 0 0 } : State).sched = .idle ∧
    (Inputs.pulse false false 0 0 0).update = true ∧ wit.sched ≠ .idle ∧
    wit.sched = .servicing 1 ∧ 1 + 1 < wit.cfg.N ∧ ¬ 2 + 1 < wit.cfg.N := by decide
/-- The hypotheses of every statement about the cursor's oscillator: `PhaseAdvanceSums`, `TriangleFlipFlipsOnOverflow`,
`ResetRequestReadsTheStagedBits`, `MergeWaveIsBitByBit`, `MergeDirTakesTheStagedDirection`, `OscResetRestartsThePair`,
`MaskClearConsumesEveryBit`, `IssueCarriesBothProducts`, `MulsinIsTheFlooredProduct`, `MulcosIsTheFlooredNegatedProduct`. -/
theorem witness_cursor : wit.sched = .servicing 1 ∧
    wit.osc[1]? = some ⟨0x0800, 0x1234, 0b11, true, 0x0100, 0x3F00, 0b1001, 0b1111⟩ := by decide
theorem witness_ProductsFitAtShiftSixteen : Config.default.mulShift = 16 := by decide
theorem witness_NoIssueDisablesTheRequest :
    State.reset.sched = .idle ∧
    (∃ o, { wit with sched := .servicing 0 }.osc[0]? = some o ∧ (o.wave ≠ 0b11 ∨ wit.sig.rr = true)) ∧
    (∃ o, witSine.sched = .servicing 1 ∧ witSine.osc[1]? = some o ∧ o.wave = 0b11 ∧ witSine.sig.rr = false) :=
  ⟨by decide, ⟨_, rfl, by decide⟩, ⟨_, by decide, rfl, by decide, by decide⟩⟩
theorem witness_ShiftMovesEverySlot : wit.pipe.length = wit.cfg.D ∧ 0 < wit.cfg.D ∧ 0 + 1 < wit.cfg.D := by decide
theorem witness_WritebackAddsThePartials :
    wit.pipe[wit.cfg.D - 1]? = some ⟨true, 5, 7, 1⟩ ∧ wit.osc[1]?.isSome = true ∧
      State.reset.pipe[State.reset.cfg.D - 1]? = some ⟨false, 0, 0, 0⟩ := by decide
theorem witness_DecodeSineShowsTheSineState :
    let s : State := { wit with inp := .nowrite false 1 }
    s.inp.address < s.cfg.N ∧ ∃ o, s.osc[s.inp.address]? = some o ∧ o.wave = 0b11 :=
  ⟨by decide, _, rfl, by decide⟩
theorem witness_DecodeRampAndTriangleNegateByDirection :
    (let s : State := { wit with inp := .nowrite false 2 }
     s.inp.address < s.cfg.N ∧ ∃ o, s.osc[s.inp.address]? = some o ∧ o.wave = 0b00) ∧
    (let s : State := { wit with inp := .nowrite false 0 }
     s.inp.address < s.cfg.N ∧ ∃ o, s.osc[s.inp.address]? = some o ∧ o.wave = 0b10) :=
  ⟨⟨by decide, _, rfl, by decide⟩, ⟨by decide, _, rfl, by decide⟩⟩
theorem witness_DecodeSquareShowsTheTopBit :
    let s : State := bank1 (phased 0 0x8000 0b01 true)
    s.inp.address < s.cfg.N ∧ ∃ o, s.osc[s.inp.address]? = some o ∧ o.wave = 0b01 :=
  ⟨by decide, _, rfl, by decide⟩
theorem witness_DecodeSymmetries : (phased 0 0x4000 0b00 true).wave = 0b00 ∧ (phased 0 0x4000 0b10 true).wave = 0b10 ∧
    (phased 0 0x4000 0b01 true).wave = 0b01 := by decide
theorem witness_UnselectedOperationsDoNothing :
    State.reset.sched = .idle ∧ State.reset.cfg.N ≤ ({ State.reset with inp := .nowrite false 3 } : State).inp.address ∧
      ∃ o, wit.osc[wit.inp.address]? = some o ∧ o.wave ≠ 0b11 ∧ o.wave ≠ 0b00 :=
  ⟨by decide, by decide, _, rfl, by decide, by decide⟩
theorem witness_EveryInstructionKeepsTheInvariant : wit.Inv ∧ exec .tick wit = .next (tick wit.inp wit) :=
  ⟨by decide, rfl⟩
theorem witness_EveryStepKeepsTheInvariant :
    wit.Inv ∧ wit.ScriptFits ∧ step wit = .next (tick (.nowrite false 0) wit) := ⟨by decide, by decide, rfl⟩
theorem witness_NoRunStops : ({ wit with script := [⟨0x7FFFFF, 3⟩] } : State).ScriptFits := by decide
theorem witness_ParametersAreFixed :
    exec (.configure 1 1 1 14 16) wit = .next (.construct ⟨1, 1, 1, 14, 16⟩ wit.script) ∧
      (State.construct ⟨1, 1, 1, 14, 16⟩ wit.script).cfg ≠ wit.cfg := ⟨by rfl, by decide⟩
/-- The hypotheses of `PendingMaskChangesOnlyByWriteOrService`: oscillator 2, the last, is written and not serviced;
oscillator 0 neither; oscillator 1 is serviced and not written. -/
theorem witness_PendingMaskChangesOnlyByWriteOrService :
    let s : State := { wit with script := [⟨0x320002, 2⟩] }
    step s = .next (tick (.wrwfdr false 2 0b0010 0b0010) wit) ∧ s.osc[2]?.isSome = true ∧ s.osc[0]?.isSome = true ∧
      s.services ≠ some 2 ∧ s.services ≠ some 0 ∧ s.services = some 1 ∧
      (s.fetch.writeBit = true ∧ s.fetch.selectBit = true ∧ s.fetch.address = 2 ∧ 2 < s.cfg.N) :=
  ⟨rfl, by decide, by decide, by decide, by decide, by decide, by decide⟩
/-- Oscillator 1 is serviced and written in the same step. -/
theorem witness_PendingMaskChangesOnlyByWriteOrService_both :
    let s : State := { wit with script := [⟨0x320002, 1⟩] }
    step s = .next (tick (.wrwfdr false 1 0b0010 0b0010) wit) ∧ s.osc[1]?.isSome = true ∧ s.services = some 1 ∧
      (s.fetch.writeBit = true ∧ s.fetch.selectBit = true ∧ s.fetch.address = 1 ∧ 1 < s.cfg.N) :=
  ⟨rfl, by decide, by decide, by decide⟩
theorem witness_PairChangesOnlyByLandingOrReset :
    step witSine = .next (tick (.nowrite false 0) witSine) ∧ witSine.osc[1]? = some (sined 0x0800 0x0100 0x3F00) ∧
      (tick (.nowrite false 0) witSine).osc[1]?.isSome = true ∧
      ¬ (witSine.services = some 1 ∧
        ((sined 0x0800 0x0100 0x3F00).pmask.getLsbD 0 && (sined 0x0800 0x0100 0x3F00).pval.getLsbD 0) = true) :=
  ⟨rfl, by decide, by decide, by decide⟩
theorem witness_SweepServicesEachOscillatorInItsTick :
    let s : State := { State.reset with script := [⟨0x400000, 0⟩] }
    s.Inv ∧ s.ScriptFits ∧ s.sched = .idle ∧ s.fetch.updateBit = true ∧ 2 < s.cfg.N := by decide
theorem witness_SweepMovesEveryOscillatorOnce :
    State.reset.Inv ∧ State.reset.sched = .idle ∧ State.reset.osc[2]?.isSome = true := by decide
theorem witness_RequestLandsAfterExactlyDTicks :
    witSine.Inv ∧ witSine.ScriptFits ∧ step witSine = .next (tick (.nowrite false 0) witSine) ∧
      (tick (.nowrite false 0) witSine).pipe[0]? = some ⟨true, 0x01F8, 0xFFF7, 1⟩ ∧ 1 < witSine.cfg.D :=
  ⟨by decide, by decide, rfl, by decide, by decide⟩
theorem witness_AccumulatorCountsServicesModulo :
    let s : State := { wit with script := [⟨0x204000, 1⟩] }
    steps 1 s = .next (tick (.wrpinc false 1 0x4000) wit) ∧ s.osc[2]? = some (phased 0x3000 0xF000 0b00 true) ∧
      (phased 0x3000 0xF000 0b00 true).wave ≠ 0b10 ∧ (phased 0x3000 0xF000 0b00 true).pmask = 0 ∧
      ∀ w ∈ s.script, w.writeBit = true → w.address ≠ 2 :=
  ⟨rfl, by decide, by decide, by decide, by decide⟩
theorem witness_DisjointWritesCombine :
    (0b0010 : Nibble) &&& 0b0100 = 0 ∧ ∀ i, wit.sched = .servicing i → i ≠ 0 ∧ i + 1 ≠ 0 := by
  refine ⟨by decide, fun i h => ?_⟩
  cases h; decide

end Sys2Proof.Tests
end

section
/-!
The statements of 00_scope.md: what the ports of a tick show, and that only CONFIGURE touches the parameters and nothing
the host's script.
-/
namespace Sys2Proof.Machine

/-! ### The ports of a tick (R15, R74) -/

/-- TICK is the tick of the inputs on the ports (R120). -/
theorem exec_tick_eq (s : State) : exec .tick s = .next (tick s.inp s) := rfl

/-- READ records the address it selects and what the ports then show (R104). -/
theorem exec_read_eq (a : Nat) (s : State) : exec (.read a) s = .next { s with
    inp := { s.inp with address := a }
    out := { s.out with dataOut := readOut s a, readError := readError s.cfg a } } := rfl

/-- `write_error` is 1 for a write whose address is past the last oscillator, and for nothing else (R201). -/
theorem writeError_eq_true_iff (c : Config) (inp : Inputs) :
    writeError c inp = true ↔ inp.writeEnable = true ∧ c.N ≤ inp.address := by
  simp [writeError, outOfRange]

/-- Settles O26: the tick's `data_out` and `read_error` are those of a READ on the same state. -/
theorem tickOutputs : Obligations.TickOutputs := by
  intro s
  refine ⟨_, _, exec_tick_eq s, exec_read_eq s.inp.address s, ?_, ?_, ?_⟩
  · rw [tick_out]
  · rw [tick_out]
  · simpa only [tick_out] using writeError_eq_true_iff s.cfg s.inp

/-! ### Parameters and script (R7, R8; log entries 1 and 3) -/

/-- `t` has the parameters and the host's script of `s`. -/
structure SameSetup (s t : State) : Prop where
  cfg : t.cfg = s.cfg
  script : t.script = s.script

namespace SameSetup

theorem refl (s : State) : SameSetup s s := ⟨rfl, rfl⟩

/-- A tick reads the parameters and leaves the script to `step` (R120). -/
theorem tick (inp : Inputs) (s : State) : SameSetup s (tick inp s) :=
  ⟨tick_cfg inp s, tick_script inp s⟩

theorem idleTicks_of {s t : State} (k : Nat) (h : SameSetup s t) : SameSetup s (idleTicks k t) := by
  obtain ⟨hcfg, hscript⟩ := idleTicks_frame k t
  exact ⟨hcfg.trans h.cfg, hscript.trans h.script⟩

theorem ite {s t u : State} (p : Prop) [Decidable p] (ht : SameSetup s t) (hu : SameSetup s u) :
    SameSetup s (if p then t else u) := by
  split
  · exact ht
  · exact hu

theorem setOsc (s : State) (i : Nat) (o : Osc) : SameSetup s (s.setOsc i o) :=
  ⟨setOsc_cfg s i o, setOsc_script s i o⟩

theorem present (s : State) (v : Word) : SameSetup s (s.present v) :=
  ⟨present_cfg s v, present_script s v⟩

theorem onCursor {s : State} {f : Nat → Osc → State} (hf : ∀ i o, SameSetup s (f i o)) :
    SameSetup s (onCursor s f) := by
  obtain h | ⟨i, o, -, -, h⟩ := onCursor_cases s f
  · rw [h]; exact refl s
  · rw [h]; exact hf i o

theorem onAddressed {s : State} {f : Osc → State} (hf : ∀ o, SameSetup s (f o)) :
    SameSetup s (onAddressed s f) := by
  obtain h | ⟨o, -, h⟩ := onAddressed_cases s f
  · rw [h]; exact refl s
  · rw [h]; exact hf o

end SameSetup

/-- SWEEP_START moves the scheduler alone (R121). -/
theorem execSweepStart_sameSetup {s t : State} (h : execSweepStart s = .next t) : SameSetup s t := by
  unfold execSweepStart at h
  split at h <;> cases h <;> exact ⟨rfl, rfl⟩

/-- SWEEP_ADVANCE moves the scheduler alone (R122). -/
theorem execSweepAdvance_sameSetup {s t : State} (h : execSweepAdvance s = .next t) : SameSetup s t := by
  unfold execSweepAdvance at h
  split at h <;> cases h <;> exact ⟨rfl, rfl⟩

/-- Where CONFIGURE answers a state, it is the constructed bank with the script kept (R100; log entry 14). -/
theorem execConfigure_next {n d a f m : Nat} {s t : State} (h : execConfigure n d a f m s = .next t) :
    t = .construct ⟨n, d, a, f, m⟩ s.script := by
  unfold execConfigure at h
  dsimp only at h
  split at h <;> cases h
  rfl

/-- What an instruction can do to the parameters and the script: construct a bank with the script kept, or keep both.
The cases are grouped by the shared operation the instruction's meaning is built from. -/
theorem exec_setup_cases {i : Instr} {s t : State} (h : exec i s = .next t) :
    (∃ n d a f m, i = .configure n d a f m ∧ t = .construct ⟨n, d, a, f, m⟩ s.script) ∨ SameSetup s t := by
  cases i
  case configure n d a f m => exact .inl ⟨n, d, a, f, m, rfl, execConfigure_next h⟩
  all_goals right
  -- one tick, or several
  case nowrite | wrpinc | wrwfdr | update | resetosc | setwave | setdir | setwdr | tick =>
    cases h; exact .tick _ s
  case sweep => cases h; exact .idleTicks_of _ (.tick _ s)
  case wait k => cases h; exact .idleTicks_of k (.refl s)
  -- the scheduler's rows
  case sweepStart => exact execSweepStart_sameSetup h
  case sweepAdvance => exact execSweepAdvance_sameSetup h
  -- rows that update fields of the state as it stands
  case read | retriggerIgnored | shift | writeback => cases h; exact ⟨rfl, rfl⟩
  case noIssue => cases h; exact .ite _ ⟨rfl, rfl⟩ (.refl s)
  -- rows on the cursor's oscillator
  case service | phaseAdvance | triangleFlip | resetRequest | mergeWave | mergeDir | maskClear | merge |
      issue | mulsin | mulcos =>
    cases h; exact .onCursor fun _ _ => ⟨rfl, rfl⟩
  case oscReset => cases h; exact .onCursor fun i o => .ite _ (.setOsc s i _) (.refl s)
  -- rows on the addressed oscillator
  case decode => cases h; exact .onAddressed fun o => .present s o.output
  case decodeSine | decodeRamp | decodeTriangle | decodeSquare =>
    cases h; exact .onAddressed fun _ => .ite _ (.present s _) (.refl s)

/-- Settles O53, from what each instruction can do to the parameters and the script. -/
theorem parametersAreFixed : Obligations.ParametersAreFixed := by
  intro i s t h
  obtain ⟨n, d, a, f, m, hi, rfl⟩ | hsame := exec_setup_cases h
  · exact ⟨construct_script _ _, fun _ => ⟨n, d, a, f, m, hi⟩⟩
  · exact ⟨hsame.script, fun hne => absurd hsame.cfg hne⟩

end Sys2Proof.Machine
end

section
/-!
The statements of 10_state.md: every instruction and every step keep the shape of the bank, and `pmask` changes only by
an accepted WFDR write and by the service.
-/
namespace Sys2Proof.Machine

/-! ### The parts of the invariant -/

/-- Legal parameters allow at least one oscillator (R100). -/
theorem N_pos_of_legal {c : Config} (h : legal c = true) : 0 < c.N := by
  simp only [legal, decide_eq_true_eq] at h
  exact Nat.pos_of_ne_zero h.1

namespace State.Inv

variable {s : State}

theorem N_pos (h : s.Inv) : 0 < s.cfg.N := by
  obtain ⟨hlegal, -⟩ := h
  exact N_pos_of_legal hlegal

theorem osc_length (h : s.Inv) : s.osc.length = s.cfg.N := by
  obtain ⟨-, hosc, -⟩ := h
  exact hosc

theorem request_wf (h : s.Inv) : s.sig.req.wf s.cfg = true := by
  obtain ⟨-, -, -, -, hreq, -⟩ := h
  exact hreq

/-- An index that finds a record is one of the `N` oscillators (R20). -/
theorem lt_N_of_osc (h : s.Inv) {i : Nat} {o : Osc} (ho : s.osc[i]? = some o) : i < s.cfg.N := by
  obtain ⟨hi, -⟩ := List.getElem?_eq_some_iff.1 ho
  exact h.osc_length ▸ hi

end State.Inv

/-! ### Well-formed slots (R34, R164) -/

theorem Slot.empty_wf {c : Config} (h : 0 < c.N) : Slot.empty.wf c = true := by
  simp [Slot.wf, Slot.empty, h]

theorem Slot.wf_of_enabled {c : Config} {i : Nat} (sp cp : Word) (h : i < c.N) :
    Slot.wf c ⟨true, sp, cp, i⟩ = true := by
  simp [Slot.wf, h]

theorem Osc.request_wf {c : Config} {i : Nat} (o : Osc) (rr : Bool) (h : i < c.N) :
    (o.request c i rr).wf c = true := by
  unfold Osc.request
  split
  · exact Slot.wf_of_enabled _ _ h
  · exact Slot.empty_wf (Nat.zero_lt_of_lt h)

/-- A tick's request is well formed on a register file of `N` records: it is disabled, or its target is the record it
was read from. -/
theorem requestPhase_wf {c : Config} (cur : Option Nat) {osc : List Osc} (hN : 0 < c.N) (hosc : osc.length = c.N) :
    (requestPhase c cur osc).wf c = true := by
  obtain h | ⟨i, o, -, ho, -, h⟩ := requestPhase_cases c cur osc
  · rw [h]; exact Slot.empty_wf hN
  · rw [h]
    obtain ⟨hi, -⟩ := List.getElem?_eq_some_iff.1 ho
    exact Slot.wf_of_enabled _ _ (hosc ▸ hi)

/-- A shift brings in the request and no other new slot (R165). -/
theorem shiftPhase_all_wf {c : Config} {req : Slot} {pipe : List Slot} (hreq : req.wf c = true)
    (hpipe : pipe.all (Slot.wf c) = true) : (shiftPhase c req pipe).all (Slot.wf c) = true := by
  have hall : (req :: pipe).all (Slot.wf c) = true := by simp [hreq, hpipe]
  rw [List.all_eq_true] at hall ⊢
  exact fun w hw => hall w (List.mem_of_mem_take hw)

/-! ### What keeps the invariant -/

/-- CONFIGURE's bank is well shaped (R100). -/
theorem construct_inv {c : Config} (script : List HostWord) (h : legal c = true) :
    (State.construct c script).Inv := by
  have hempty : Slot.empty.wf c = true := Slot.empty_wf (N_pos_of_legal h)
  refine ⟨h, List.length_replicate, List.length_replicate, ?_, hempty, rfl⟩
  rw [construct_pipe, construct_cfg, List.all_eq_true]
  intro w hw
  rw [List.eq_of_mem_replicate hw]
  exact hempty

section
variable {s : State}

theorem setOsc_inv (hs : s.Inv) (i : Nat) (o : Osc) : (s.setOsc i o).Inv := by
  obtain ⟨hlegal, hosc, hrest⟩ := hs
  exact ⟨hlegal, by rw [setOsc_osc, List.length_set, hosc, setOsc_cfg], hrest⟩

/-- The invariant constrains the request alone among a tick's signals. -/
theorem withSignals_inv (hs : s.Inv) {g : Signals} (hg : g.req.wf s.cfg = true) :
    ({ s with sig := g } : State).Inv := by
  obtain ⟨hlegal, hosc, hlen, hpipe, -, hsched⟩ := hs
  exact ⟨hlegal, hosc, hlen, hpipe, hg, hsched⟩

theorem withSched_inv (hs : s.Inv) {σ : Sched} (hσ : σ.inRange s.cfg = true) :
    ({ s with sched := σ } : State).Inv := by
  obtain ⟨hlegal, hosc, hlen, hpipe, hreq, -⟩ := hs
  exact ⟨hlegal, hosc, hlen, hpipe, hreq, hσ⟩

theorem onCursor_inv (hs : s.Inv) {f : Nat → Osc → State} (hf : ∀ i o, i < s.cfg.N → (f i o).Inv) :
    (onCursor s f).Inv := by
  obtain h | ⟨i, o, -, ho, h⟩ := onCursor_cases s f
  · rw [h]; exact hs
  · rw [h]; exact hf i o (hs.lt_N_of_osc ho)

theorem onAddressed_inv (hs : s.Inv) {f : Osc → State} (hf : ∀ o, (f o).Inv) : (onAddressed s f).Inv := by
  obtain h | ⟨o, -, h⟩ := onAddressed_cases s f
  · rw [h]; exact hs
  · rw [h]; exact hf o

/-- A tick keeps the shape: each phase keeps the number of records, the shift brings in a well-formed request, and the
scheduler stays in range (R120). -/
theorem tick_inv (hs : s.Inv) (inp : Inputs) : (tick inp s).Inv := by
  have hempty : Slot.empty.wf s.cfg = true := Slot.empty_wf hs.N_pos
  obtain ⟨hlegal, hosc, hlen, hpipe, -, -⟩ := hs
  have hreq := requestPhase_wf (serviceCursor s.sched inp.update) (N_pos_of_legal hlegal)
    ((writebackPhase_length (oldest s.cfg s.pipe) s.osc).trans hosc)
  exact ⟨hlegal, (tick_osc_length inp s).trans hosc, shiftPhase_length s.cfg _ s.pipe hlen,
    shiftPhase_all_wf hreq hpipe, hempty, nextSched_inRange s.cfg _⟩

end

theorem idleTicks_inv (k : Nat) {s : State} (hs : s.Inv) : (idleTicks k s).Inv := by
  induction k generalizing s with
  | zero => exact hs
  | succ k ih => exact ih (tick_inv hs .idle)

/-! ### The rows that are not one tick -/

/-- CONFIGURE answers a state for legal parameters alone (R100, R200). -/
theorem execConfigure_legal {n d a f m : Nat} {s t : State} (h : execConfigure n d a f m s = .next t) :
    legal ⟨n, d, a, f, m⟩ = true := by
  unfold execConfigure at h
  dsimp only at h
  split at h
  · assumption
  · cases h

theorem execSweepStart_inv {s t : State} (hs : s.Inv) (h : execSweepStart s = .next t) : t.Inv := by
  unfold execSweepStart at h
  split at h <;> cases h
  · exact withSched_inv hs (decide_eq_true hs.N_pos)
  · exact hs

theorem execSweepAdvance_inv {s t : State} (hs : s.Inv) (h : execSweepAdvance s = .next t) : t.Inv := by
  unfold execSweepAdvance at h
  split at h <;> cases h
  · exact withSched_inv hs (nextSched_inRange s.cfg _)
  · exact hs

/-- SHIFT is phase D alone (R165). -/
theorem shift_inv {s : State} (hs : s.Inv) :
    ({ s with pipe := shiftPhase s.cfg s.sig.req s.pipe, sig := .idle } : State).Inv := by
  have hempty : Slot.empty.wf s.cfg = true := Slot.empty_wf hs.N_pos
  obtain ⟨hlegal, hosc, hlen, hpipe, hreq, hsched⟩ := hs
  exact ⟨hlegal, hosc, shiftPhase_length _ _ _ hlen, shiftPhase_all_wf hreq hpipe, hempty, hsched⟩

/-- WRITEBACK is phase A alone (R166). -/
theorem writeback_inv {s : State} (hs : s.Inv) :
    ({ s with osc := writebackPhase (oldest s.cfg s.pipe) s.osc } : State).Inv := by
  obtain ⟨hlegal, hosc, hrest⟩ := hs
  exact ⟨hlegal, (writebackPhase_length _ _).trans hosc, hrest⟩

/-- Settles O50. The cases are grouped by the shared operation the instruction's meaning is built from. -/
theorem everyInstructionKeepsTheInvariant : Obligations.EveryInstructionKeepsTheInvariant := by
  intro i s t hs h
  cases i
  case configure n d a f m =>
    rw [execConfigure_next h]
    exact construct_inv _ (execConfigure_legal h)
  -- one tick, or several
  case nowrite | wrpinc | wrwfdr | update | resetosc | setwave | setdir | setwdr | tick =>
    cases h; exact tick_inv hs _
  case sweep => cases h; exact idleTicks_inv _ (tick_inv hs _)
  case wait k => cases h; exact idleTicks_inv k hs
  -- the scheduler's rows
  case sweepStart => exact execSweepStart_inv hs h
  case sweepAdvance => exact execSweepAdvance_inv hs h
  -- rows that touch neither the records, the pipeline, the scheduler nor the request
  case read | retriggerIgnored => cases h; exact hs
  -- the pipeline's own rows
  case shift => cases h; exact shift_inv hs
  case writeback => cases h; exact writeback_inv hs
  case noIssue =>
    cases h
    exact iteInduction (fun _ => withSignals_inv hs (Slot.empty_wf hs.N_pos)) fun _ => hs
  -- rows that replace the cursor's record
  case triangleFlip | mergeWave | mergeDir | maskClear =>
    cases h; exact onCursor_inv hs fun i _ _ => setOsc_inv hs i _
  case oscReset =>
    cases h; exact onCursor_inv hs fun i _ _ => iteInduction (fun _ => setOsc_inv hs i _) fun _ => hs
  -- rows that replace the cursor's record and set signals
  case phaseAdvance | merge =>
    cases h; exact onCursor_inv hs fun i _ _ => withSignals_inv (setOsc_inv hs i _) hs.request_wf
  case service =>
    cases h; exact onCursor_inv hs fun i o hi => withSignals_inv (setOsc_inv hs i _) (o.request_wf _ hi)
  -- rows that set signals alone
  case resetRequest | mulsin | mulcos =>
    cases h; exact onCursor_inv hs fun _ _ _ => withSignals_inv hs hs.request_wf
  case issue => cases h; exact onCursor_inv hs fun _ o hi => withSignals_inv hs (o.request_wf _ hi)
  -- rows on the addressed oscillator, which show a value and change nothing else
  case decode => cases h; exact onAddressed_inv hs fun _ => hs
  case decodeSine | decodeRamp | decodeTriangle | decodeSquare =>
    cases h; exact onAddressed_inv hs fun _ => iteInduction (fun _ => hs) fun _ => hs

/-! ### A step is a tick of its word's inputs (R71 to R73, R79) -/

/-- What the decoder can answer, by the write group and the pulse (R72, R73). -/
theorem decode_cases {w : HostWord} {i : Instr} (h : decode w = .ok i) :
    (w.writeBit = false ∧ w.updateBit = true ∧
      i = .update false w.selectBit w.maskField w.dataField w.address) ∨
    (w.writeBit = false ∧ w.updateBit = false ∧ i = .nowrite false w.address) ∨
    (w.writeBit = true ∧ w.selectBit = false ∧ i = .wrpinc w.updateBit w.address w.dataField) ∨
    (w.writeBit = true ∧ w.selectBit = true ∧
      i = decodeWfdr w.updateBit w.address w.maskField (wfdrValue w.dataField)) := by
  unfold decode at h
  split at h
  · cases h
  · split at h
    next hw =>
      cases hu : w.updateBit
      · rw [hu] at h; cases h; exact .inr (.inl ⟨hw, rfl, rfl⟩)
      · rw [hu] at h; cases h; exact .inl ⟨hw, rfl, rfl⟩
    next _ _ hw hsel => cases h; exact .inr (.inr (.inl ⟨hw, hsel, rfl⟩))
    next _ _ hw hsel => cases h; exact .inr (.inr (.inr ⟨hw, hsel, rfl⟩))

/-- A WFDR write's tick reads the used bits of `data_in` alone (R77, R79). -/
theorem tick_wrwfdr (u : Bool) (a : Nat) (m : Nibble) (d : Word) (s : State) :
    tick (.wrwfdr u a m (wfdrValue d)) s =
      { tick ⟨u, true, true, m, d, a⟩ s with inp := .wrwfdr u a m (wfdrValue d) } := by
  have hwrite (osc : List Osc) : hostWrite s.cfg (.wrwfdr u a m (wfdrValue d)) osc =
      hostWrite s.cfg ⟨u, true, true, m, d, a⟩ osc := by
    simp [hostWrite, Inputs.wrwfdr]
  simp only [tick, hwrite]
  rfl

/-- A decoded instruction runs the tick of its word's own inputs; only the recorded input port can differ from them,
in the bits the tick ignores (R79; log entry 5). -/
theorem exec_decoded {w : HostWord} {i : Instr} (h : decode w = .ok i) (s : State) :
    ∃ p, exec i s = .next { tick w.inputs s with inp := p } := by
  obtain ⟨hw, hu, rfl⟩ | ⟨hw, hu, rfl⟩ | ⟨hw, hsel, rfl⟩ | ⟨hw, hsel, rfl⟩ := decode_cases h
  · refine ⟨.pulse false w.selectBit w.maskField w.dataField w.address, ?_⟩
    rw [HostWord.inputs, hw, hu]
    rfl
  · refine ⟨.nowrite false w.address, ?_⟩
    rw [HostWord.inputs, hw, hu]
    rfl
  · refine ⟨.wrpinc w.updateBit w.address w.dataField, ?_⟩
    rw [HostWord.inputs, hw, hsel]
    rfl
  · refine ⟨.wrwfdr w.updateBit w.address w.maskField (wfdrValue w.dataField), ?_⟩
    rw [exec_decodeWfdr, HostWord.inputs, hw, hsel, ← tick_wrwfdr]
    rfl

/-- A step that answers a state is the tick of the fetched word's inputs, with the word taken from the script; only the
recorded input port can differ from them (R120). -/
theorem step_next_tick {s t : State} (h : step s = .next t) :
    ∃ p, t = { tick s.fetch.inputs s.taken with inp := p } := by
  obtain ⟨e, -, he⟩ | ⟨i, -, -, he⟩ | ⟨i, hd, -, he⟩ := step_cases s
  · cases he.symm.trans h
  · cases he.symm.trans h
  · obtain ⟨p, hp⟩ := exec_decoded hd s.taken
    rw [← he, h] at hp
    cases hp
    exact ⟨p, rfl⟩

/-- The whole of a step on one record: write-back, then service, then host write (R120). -/
theorem step_at {s t : State} (h : step s = .next t) (x : Nat) :
    t.osc[x]? = s.osc[x]?.map fun o =>
      writeAt s.cfg s.fetch.inputs x (serviceAt s.cfg s.services x (writebackAt (oldest s.cfg s.pipe) x o)) := by
  obtain ⟨p, rfl⟩ := step_next_tick h
  exact tick_at s.fetch.inputs s.taken x

/-- Settles O51: a step is a tick, which keeps the shape, and it leaves the rest of the script to the host. -/
theorem everyStepKeepsTheInvariant : Obligations.EveryStepKeepsTheInvariant := by
  intro s t hs hfits h
  obtain ⟨p, rfl⟩ := step_next_tick h
  have htaken : s.taken.Inv := hs
  refine ⟨tick_inv htaken s.fetch.inputs, ?_⟩
  rw [State.ScriptFits, List.all_eq_true] at hfits ⊢
  exact fun w hw => hfits w (List.mem_of_mem_tail hw)

/-! ### `pmask` through the phases of a tick (R29) -/

/-- A write-back leaves the staged bits alone (R166). -/
@[simp] theorem writebackAt_pmask (w : Option Slot) (x : Nat) (o : Osc) : (writebackAt w x o).pmask = o.pmask := by
  unfold writebackAt
  split
  · split <;> rfl
  · rfl

/-- A service clears the mask of its own oscillator (R144). -/
theorem serviceAt_pmask (c : Config) (cur : Option Nat) (x : Nat) (o : Osc) :
    (serviceAt c cur x o).pmask = if cur = some x then 0 else o.pmask := by
  unfold serviceAt
  split
  · exact Osc.serviced_pmask c o
  · rfl

/-- The host sets mask bits by an accepted WFDR write to the oscillator (R103). -/
theorem writeAt_pmask (c : Config) (inp : Inputs) (x : Nat) (o : Osc) :
    (writeAt c inp x o).pmask =
      if inp.writeEnable = true ∧ inp.select = true ∧ inp.address = x ∧ x < c.N then o.pmask ||| inp.mask
      else o.pmask := by
  have hin : outOfRange c inp.address = false ↔ inp.address < c.N := by simp [outOfRange]
  unfold writeAt
  split
  next hacc =>
    obtain ⟨hw, hr, rfl⟩ := hacc
    cases hsel : inp.select
    · simp
    · simp [hw, hin.1 hr]
  next hrej =>
    rw [if_neg]
    rintro ⟨hw, -, rfl, hN⟩
    exact hrej ⟨hw, hin.2 hN, rfl⟩

/-- Settles O54: of a step's three phases on a record, the service clears `pmask` and the WFDR write then sets bits. -/
theorem pendingMaskChangesOnlyByWriteOrService : Obligations.PendingMaskChangesOnlyByWriteOrService := by
  intro s t x o o' h ho ho' staged
  have hpmask : o'.pmask =
      if staged then (if s.services = some x then 0 else o.pmask) ||| s.fetch.maskField
      else if s.services = some x then 0 else o.pmask := by
    have hat := step_at h x
    rw [ho, ho', Option.map_some] at hat
    rw [Option.some.inj hat, writeAt_pmask, serviceAt_pmask, writebackAt_pmask]
    rfl
  refine ⟨fun hserv hst => ?_, fun hserv hst => ?_, fun hserv hst => ?_, fun hserv hst => ?_⟩
  all_goals simp [hpmask, hserv, hst]

end Sys2Proof.Machine
end

section
/-!
The statements of 30_encoding.md: decoder and encoder agree, every word runs the tick of its bits, the ignored inputs have
no effect, and SWEEP services each oscillator once.
-/
namespace Sys2Proof

/-! ### The decoder on encoded words (R71 to R73, R82) -/

/-- The word of a WRWFDR decodes by its mask and value alone: no used bit is lost in packing (R71, R77). -/
theorem decode_encodeWfdr (u : Bool) (a : Nat) (m v : Nibble) :
    decode (encodeWfdr u a m v) = .ok (decodeWfdr u a m v) := by
  rw [encodeWfdr, decode_packHC]
  simp only [wfdrValue_setWidth]

theorem decodeWfdr_resetosc (u : Bool) (a : Nat) : decodeWfdr u a 0b0001 0b0001 = .resetosc u a := rfl

theorem decodeWfdr_setwave (u : Bool) (a : Nat) (W : Waveform) :
    decodeWfdr u a 0b1100 (wfdrBits W false false) = .setwave u a W := by
  cases W <;> rfl

theorem decodeWfdr_setdir (u : Bool) (a : Nat) (d : Bool) :
    decodeWfdr u a 0b0010 (wfdrBits .ramp d false) = .setdir u a d := by
  cases d <;> rfl

theorem decodeWfdr_setwdr (u : Bool) (a : Nat) (W : Waveform) (d r : Bool) :
    decodeWfdr u a 0b1111 (wfdrBits W d r) = .setwdr u a W d r := by
  cases W <;> cases d <;> cases r <;> rfl

/-- SETWAVE's value condition, bit by bit. -/
theorem lowBits_eq_zero_iff (v : Nibble) :
    v.extractLsb' 0 2 = 0 ↔ v.getLsbD 0 = false ∧ v.getLsbD 1 = false := by
  revert v; decide

/-- SETDIR's value condition, bit by bit. -/
theorem offDirBits_eq_zero_iff (v : Nibble) :
    v &&& 0b1101 = 0 ↔ v.getLsbD 0 = false ∧ v.getLsbD 2 = false ∧ v.getLsbD 3 = false := by
  revert v; decide

/-- The decoder gives the word of an operation the spelling `Instr.spelling` names (R73, R82; log entry 11). -/
theorem decode_encode {i : Instr} {w : HostWord} (h : encode i = some w) : decode w = .ok i.spelling := by
  cases i
  case nowrite u a => cases h; rw [decode_packHC]; cases u <;> rfl
  case wrpinc u a d => cases h; rw [decode_packHC]; rfl
  case update wr sel m d a => cases h; rw [decode_packHC]; cases wr <;> cases sel <;> rfl
  -- the spellings of a WFDR write
  case wrwfdr u a m v => cases h; exact decode_encodeWfdr u a m v
  case resetosc u a => cases h; rw [decode_encodeWfdr, decodeWfdr_resetosc]; rfl
  case setwave u a W => cases h; rw [decode_encodeWfdr, decodeWfdr_setwave]; rfl
  case setdir u a d => cases h; rw [decode_encodeWfdr, decodeWfdr_setdir]; rfl
  case setwdr u a W d r => cases h; rw [decode_encodeWfdr, decodeWfdr_setwdr]; rfl
  -- no other operation has a word
  all_goals cases h

/-- Where the decoder's spelling of an operation is the operation itself, decode inverts encode. -/
theorem encode_map_decode {i : Instr} {w : HostWord} (h : encode i = some w) (hi : i.spelling = i) :
    (encode i).map decode = some (.ok i) := by
  rw [h, Option.map_some, decode_encode h, hi]

/-- Settles O3: for each operation listed, the decoder's spelling of its word is the operation. -/
theorem decodeInvertsEncode : Obligations.DecodeInvertsEncode := by
  refine ⟨fun a => ?_, fun u a d => ?_, fun u a m v hreset hwave hdir hwdr => ?_, fun sel m d a => ?_,
    fun u a => ?_, fun u a W => ?_, fun u a d => ?_, fun u a W d r => ?_⟩
  case refine_3 =>
    refine encode_map_decode rfl ?_
    rw [← lowBits_eq_zero_iff] at hwave
    rw [← offDirBits_eq_zero_iff] at hdir
    rw [Instr.spelling, decodeWfdr, if_neg hreset, if_neg hwave, if_neg hdir, if_neg hwdr]
  all_goals exact encode_map_decode rfl rfl

/-- Every word without the padding bit decodes (R79). -/
theorem exists_decode_of_padding {w : HostWord} (h : w.hc.getLsbD 23 = false) : ∃ j, decode w = .ok j := by
  unfold decode
  rw [if_neg (Bool.eq_false_iff.1 h)]
  split
  · exact ⟨_, (apply_ite Except.ok _ _ _).symm⟩
  · exact ⟨_, rfl⟩
  · exact ⟨_, rfl⟩

end Sys2Proof

namespace Sys2Proof.Machine

/-! ### The inputs a tick ignores (R79) -/

/-- Two input bundles that differ only in bits the tick ignores (R79). -/
structure SameCommand (p q : Inputs) : Prop where
  update : p.update = q.update
  writeEnable : p.writeEnable = q.writeEnable
  address : p.address = q.address
  select : p.writeEnable = true → p.select = q.select
  staged : p.writeEnable = true → p.select = true → p.mask = q.mask ∧ wfdrValue p.dataIn = wfdrValue q.dataIn
  data : p.writeEnable = true → p.select = false → p.dataIn = q.dataIn

/-- The used bits of a WFDR write's `data_in` are its bits 3:0 (R77). -/
theorem wfdrValue_congr {d e : Word} (h : ∀ k < 4, d.getLsbD k = e.getLsbD k) : wfdrValue d = wfdrValue e := by
  ext k hk
  simpa [wfdrValue, BitVec.getElem_extractLsb'] using h k hk

namespace SameCommand

variable {p q : Inputs}

/-- Phase C reads no ignored bit. -/
theorem hostWrite_eq (h : SameCommand p q) (c : Config) (osc : List Osc) : hostWrite c p osc = hostWrite c q osc := by
  unfold hostWrite
  rw [← h.writeEnable, ← h.address]
  cases hw : p.writeEnable
  · rfl
  · rw [← h.select hw]
    cases hs : p.select
    · rw [h.data hw hs]; rfl
    · obtain ⟨hmask, hvalue⟩ := h.staged hw hs
      rw [hmask, hvalue]; rfl

/-- No part of a tick but the recorded input ports reads an ignored bit. -/
theorem tick_eq (h : SameCommand p q) (s : State) : tick q s = { tick p s with inp := q } := by
  have herr : writeError s.cfg p = writeError s.cfg q := by
    rw [writeError, h.writeEnable, h.address]; rfl
  simp only [tick, h.hostWrite_eq, h.update, h.address, herr]

end SameCommand

/-- A WRPINC ignores `mask` (R76, R79). -/
theorem sameCommand_wrpinc (u : Bool) (a : Nat) (m : Nibble) (d : Word) :
    SameCommand ⟨u, true, false, m, d, a⟩ (.wrpinc u a d) :=
  { update := rfl, writeEnable := rfl, address := rfl, select := fun _ => rfl, data := fun _ _ => rfl
    staged := fun _ h => nomatch h }

/-- Settles O6: the hypotheses say that the bundles differ in ignored bits alone. -/
theorem ignoredInputsHaveNoEffect : Obligations.IgnoredInputsHaveNoEffect := by
  intro s p q hu hw ha hsel hstaged hdata
  have hsame : SameCommand p q :=
    { update := hu, writeEnable := hw, address := ha, select := hsel, data := hdata
      staged := fun h1 h2 => (hstaged h1 h2).imp_right wfdrValue_congr }
  exact ⟨_, _, exec_tick_eq _, exec_tick_eq _, hsame.tick_eq s⟩

/-- Settles O5: every word without the padding bit decodes, and what it decodes to runs the tick of the word's inputs. -/
theorem everyWordRunsThePortTick : Obligations.EveryWordRunsThePortTick := by
  intro w hpad
  obtain ⟨j, hj⟩ := exists_decode_of_padding hpad
  refine ⟨j, hj, fun s => ?_⟩
  obtain ⟨p, hp⟩ := exec_decoded hj s
  exact ⟨_, _, hp, exec_tick_eq _, rfl⟩

/-! ### The effect of an encoded operation -/

/-- An operation with a word is one tick (R71 to R73, R82). -/
theorem exec_eq_tick_of_encode {i : Instr} {w : HostWord} (h : encode i = some w) (s : State) :
    ∃ p, exec i s = .next (tick p s) := by
  cases i
  case nowrite | wrpinc | wrwfdr | update | resetosc | setwave | setdir | setwdr => exact ⟨_, rfl⟩
  all_goals cases h

/-- The decoder's spelling of an operation runs as the operation; only the recorded input ports may differ (R79;
log entry 11). -/
theorem exec_spelling {i : Instr} {s t : State} (h : exec i s = .next t) :
    ∃ p, exec i.spelling s = .next { t with inp := p } := by
  unfold Instr.spelling
  split
  next a => cases h; exact ⟨.nowrite true a, rfl⟩
  next u a m v => rw [exec_decodeWfdr]; exact ⟨t.inp, h⟩
  next m d a =>
    cases h
    exact ⟨.wrpinc true a d, congrArg Host.Outcome.next ((sameCommand_wrpinc true a m d).tick_eq s)⟩
  next m d a =>
    cases h
    rw [exec_decodeWfdr]
    exact ⟨.wrwfdr true a m (wfdrValue d), congrArg Host.Outcome.next (tick_wrwfdr true a m d s)⟩
  next => exact ⟨t.inp, h⟩

/-- Settles O4: the decoder answers `Instr.spelling`, which runs as the operation. -/
theorem encodedWordKeepsItsEffect : Obligations.EncodedWordKeepsItsEffect := by
  intro i w h
  refine ⟨i.spelling, decode_encode h, fun s => ?_⟩
  obtain ⟨p, hi⟩ := exec_eq_tick_of_encode h s
  obtain ⟨q, hj⟩ := exec_spelling hi
  exact ⟨_, _, hi, hj, rfl⟩

/-- Settles O1: of what a step can do, the two refusals need a word or an address that the hypotheses exclude. -/
theorem stepRunsDecodedInstruction : Obligations.StepRunsDecodedInstruction := by
  intro s i hdec hwf
  obtain ⟨e, he, -⟩ | ⟨j, hj, hbad, -⟩ | ⟨j, hj, -, hstep⟩ := step_cases s
  · cases hdec.symm.trans he
  · cases hdec.symm.trans hj
    cases hwf.symm.trans hbad
  · cases hdec.symm.trans hj
    exact hstep

/-! ### Internal operations off their condition (R75; log entry 8) -/

theorem onCursor_of_idle {s : State} (h : s.sched = .idle) (f : Nat → Osc → State) : onCursor s f = s := by
  simp [onCursor, h]

theorem onAddressed_of_outOfRange {s : State} (h : s.cfg.N ≤ s.inp.address) (f : Osc → State) :
    onAddressed s f = s := by
  simp [onAddressed, outOfRange, h]

/-- A row for one waveform does nothing where the addressed oscillator has another. -/
theorem onAddressed_of_wave_ne {s : State} {o : Osc} {c : WaveCode} (ho : s.osc[s.inp.address]? = some o)
    (hne : o.wave ≠ c) (f : Osc → State) : onAddressed s (fun o => if o.wave = c then f o else s) = s := by
  obtain h | ⟨o', ho', h⟩ := onAddressed_cases s fun o => if o.wave = c then f o else s
  · exact h
  · cases ho.symm.trans ho'
    rw [h, if_neg hne]

/-- Settles O49: the rows are the shared operations on the cursor's and on the addressed oscillator. -/
theorem unselectedOperationsDoNothing : Obligations.UnselectedOperationsDoNothing := by
  intro s
  refine ⟨fun hidle i hi => ?_, fun haddr i hi => ?_,
    fun o ho => ⟨fun hne => ?_, fun hne => ?_, fun hne => ?_, fun hne => ?_⟩⟩
  · fin_cases hi <;> exact congrArg Host.Outcome.next (onCursor_of_idle hidle _)
  · fin_cases hi <;> exact congrArg Host.Outcome.next (onAddressed_of_outOfRange haddr _)
  all_goals exact congrArg Host.Outcome.next (onAddressed_of_wave_ne ho hne _)

/-! ### A sweep, off the pair (R121, R122, R124) -/

/-- The record with its sine and cosine blanked: a request that lands during a sweep changes the pair alone (R166). -/
def Osc.offPair (o : Osc) : Osc := { o with sin := 0, cos := 0 }

/-- A service reads the pair for nothing but the pair (R124, R143). -/
theorem Osc.serviced_offPair (c : Config) (o : Osc) : (o.serviced c).offPair = (o.offPair.serviced c).offPair := by
  simp [offPair, Osc.sum]

theorem Osc.serviced_offPair_congr {o o' : Osc} (c : Config) (h : o.offPair = o'.offPair) :
    (o.serviced c).offPair = (o'.serviced c).offPair := by
  rw [o.serviced_offPair, o'.serviced_offPair, h]

theorem writebackAt_offPair (w : Option Slot) (x : Nat) (o : Osc) : (writebackAt w x o).offPair = o.offPair := by
  unfold writebackAt
  split
  · split <;> rfl
  · rfl

/-- What a sweep with cursor `i` has still to do to one record, off its pair: one service, if its turn is to come. -/
def sweptAt (c : Config) (i x : Nat) (o : Osc) : Osc := if i ≤ x ∧ x < c.N then o.serviced c else o

/-- A sweep is the service of the cursor's oscillator and the sweep from the next one. -/
theorem sweptAt_eq_of_lt {c : Config} {i : Nat} (h : i < c.N) (x : Nat) (o : Osc) :
    sweptAt c i x o = sweptAt c (i + 1) x (serviceAt c (some i) x o) := by
  unfold sweptAt serviceAt
  by_cases hx : i = x
  · subst hx; simp [h]
  · have hle : i + 1 ≤ x ↔ i ≤ x := by omega
    simp [hx, hle]

/-- Past the last oscillator a sweep is over (R122). -/
theorem sweptAt_of_le {c : Config} {i : Nat} (h : c.N ≤ i) (x : Nat) (o : Osc) : sweptAt c i x o = o :=
  if_neg (by omega)

theorem sweptAt_offPair_congr {o o' : Osc} (c : Config) (i x : Nat) (h : o.offPair = o'.offPair) :
    (sweptAt c i x o).offPair = (sweptAt c i x o').offPair := by
  unfold sweptAt
  split
  · exact Osc.serviced_offPair_congr c h
  · exact h

section
variable {p : Inputs} {s : State} {i : Nat}

/-- Off the pair, a tick without a write is its service alone (R120). -/
theorem tick_offPair_at (hp : p.writeEnable = false) (hcur : serviceCursor s.sched p.update = some i)
    {x : Nat} {o : Osc} (ho : s.osc[x]? = some o) :
    ∃ o', (tick p s).osc[x]? = some o' ∧ o'.offPair = (serviceAt s.cfg (some i) x o).offPair := by
  refine ⟨_, by rw [tick_at, ho, Option.map_some], ?_⟩
  rw [writeAt_of_no_write _ _ _ _ hp, hcur]
  have hwb := writebackAt_offPair (oldest s.cfg s.pipe) x o
  unfold serviceAt
  split
  · exact Osc.serviced_offPair_congr s.cfg hwb
  · exact hwb

/-- A tick before a sweep's last moves the cursor on (R122). -/
theorem tick_sched_of_lt (hcur : serviceCursor s.sched p.update = some i) (h : i + 1 < s.cfg.N) :
    (tick p s).sched = .servicing (i + 1) := by
  rw [tick_sched, hcur, nextSched, if_pos h]

/-- A sweep's last tick ends Idle (R122). -/
theorem tick_sched_of_last (hcur : serviceCursor s.sched p.update = some i) (h : s.cfg.N ≤ i + 1) :
    (tick p s).sched = .idle := by
  rw [tick_sched, hcur, nextSched, if_neg (by omega)]

end

/-- A tick that services oscillator `i`, and as many idle ticks as there are oscillators past it, end Idle and do to
each record what a sweep from `i` has to do. -/
theorem idleTicks_finish_sweep (k : Nat) {p : Inputs} {s : State} {i : Nat} (hp : p.writeEnable = false)
    (hcur : serviceCursor s.sched p.update = some i) (hN : i + 1 + k = s.cfg.N) :
    (idleTicks k (tick p s)).sched = .idle ∧ ∀ x o, s.osc[x]? = some o →
      ∃ o', (idleTicks k (tick p s)).osc[x]? = some o' ∧ o'.offPair = (sweptAt s.cfg i x o).offPair := by
  induction k generalizing p s i with
  | zero =>
    refine ⟨tick_sched_of_last hcur (by omega), fun x o ho => ?_⟩
    rw [sweptAt_eq_of_lt (by omega), sweptAt_of_le (by omega)]
    exact tick_offPair_at hp hcur ho
  | succ k ih =>
    have hcur' : serviceCursor (tick p s).sched Inputs.idle.update = some (i + 1) := by
      rw [tick_sched_of_lt hcur (by omega)]; rfl
    obtain ⟨hsched, hrec⟩ := ih (p := .idle) rfl hcur' (by rw [tick_cfg]; omega)
    refine ⟨hsched, fun x o ho => ?_⟩
    obtain ⟨o1, ho1, hserv⟩ := tick_offPair_at hp hcur ho
    obtain ⟨o', ho', hswept⟩ := hrec x o1 ho1
    refine ⟨o', ho', ?_⟩
    rw [sweptAt_eq_of_lt (by omega), hswept]
    exact sweptAt_offPair_congr s.cfg (i + 1) x hserv

/-- The accumulator after a service, as a number (R125, R143). -/
theorem Osc.serviced_acc_toNat (c : Config) (o : Osc) : (o.serviced c).acc.toNat =
    if (o.pmask.getLsbD 0 && o.pval.getLsbD 0) = true then 0
    else (o.acc.toNat + (if o.wave = 0b10 then 2 * o.inc.toNat else o.inc.toNat)) % 2 ^ 16 := by
  rw [Osc.serviced_acc, apply_ite BitVec.toNat, phaseAcc_toNat, Osc.sum_toNat]
  rfl

/-- Settles O57: the pulse services oscillator 0 and the idle ticks the others, each once. -/
theorem sweepMovesEveryOscillatorOnce : Obligations.SweepMovesEveryOscillatorOnce := by
  intro s hs hidle
  have hcur : serviceCursor s.sched (Inputs.pulse false false 0 0 0).update = some 0 := by
    rw [hidle]; rfl
  have hN := hs.N_pos
  obtain ⟨hsched, hrec⟩ := idleTicks_finish_sweep (s.cfg.N - 1) (p := .pulse false false 0 0 0) rfl hcur (by omega)
  refine ⟨_, rfl, hsched, fun x o ho => ?_⟩
  obtain ⟨o', ho', hswept⟩ := hrec x o ho
  have hserviced : o'.offPair = (o.serviced s.cfg).offPair := by
    rw [hswept, sweptAt, if_pos ⟨Nat.zero_le x, hs.lt_N_of_osc ho⟩]
  refine ⟨o', ho', ?_, ?_, ?_, ?_⟩
  · exact (congrArg Osc.pmask hserviced).trans (Osc.serviced_pmask s.cfg o)
  · exact (congrArg Osc.pval hserviced).trans (Osc.serviced_pval s.cfg o)
  · exact (congrArg Osc.inc hserviced).trans (Osc.serviced_inc s.cfg o)
  · exact (congrArg (·.acc.toNat) hserviced).trans (Osc.serviced_acc_toNat s.cfg o)

end Sys2Proof.Machine
end

section
/-!
The statements of 40_bank_interface.md: what CONFIGURE builds, what a tick's write group adds to the tick of NOWRITE, what
READ shows, and how UPDATE starts a sweep.
-/
namespace Sys2Proof.Machine

/-! ### Construction (R100) -/

/-- CONFIGURE with legal parameters constructs the bank and keeps the script (R100; log entry 14). -/
theorem exec_configure_of_legal {n d a f m : Nat} (s : State) (h : legal ⟨n, d, a, f, m⟩ = true) :
    exec (.configure n d a f m) s = .next (.construct ⟨n, d, a, f, m⟩ s.script) :=
  if_pos h

/-- Settles O7: the parameters are legal, and a constructed bank is `N` initial records and `D` empty slots. -/
theorem configureConstructsTheBank : Obligations.ConfigureConstructsTheBank := by
  intro n d a f m s hn hd ha hf hm
  have hlegal : legal ⟨n, d, a, f, m⟩ = true := decide_eq_true ⟨hn, hd, ha, hf, hm⟩
  exact ⟨_, exec_configure_of_legal s hlegal, rfl, List.length_replicate,
    fun _ hx => List.getElem?_replicate_of_lt hx, List.length_replicate,
    fun _ hk => List.getElem?_replicate_of_lt hk, rfl, rfl⟩

/-! ### What the phases of a tick leave unchanged in a record (R101) -/

@[simp] theorem writebackAt_inc (w : Option Slot) (x : Nat) (o : Osc) : (writebackAt w x o).inc = o.inc :=
  (congrArg Osc.inc (writebackAt_offPair w x o) :)
@[simp] theorem writebackAt_acc (w : Option Slot) (x : Nat) (o : Osc) : (writebackAt w x o).acc = o.acc :=
  (congrArg Osc.acc (writebackAt_offPair w x o) :)
@[simp] theorem writebackAt_wave (w : Option Slot) (x : Nat) (o : Osc) : (writebackAt w x o).wave = o.wave :=
  (congrArg Osc.wave (writebackAt_offPair w x o) :)
@[simp] theorem writebackAt_dir (w : Option Slot) (x : Nat) (o : Osc) : (writebackAt w x o).dir = o.dir :=
  (congrArg Osc.dir (writebackAt_offPair w x o) :)
@[simp] theorem writebackAt_pval (w : Option Slot) (x : Nat) (o : Osc) : (writebackAt w x o).pval = o.pval :=
  (congrArg Osc.pval (writebackAt_offPair w x o) :)

/-- A service uses the increment and does not change it (R125). -/
@[simp] theorem serviceAt_inc (c : Config) (cur : Option Nat) (x : Nat) (o : Osc) :
    (serviceAt c cur x o).inc = o.inc := by
  unfold serviceAt
  split
  · exact Osc.serviced_inc c o
  · rfl

/-- A service merges the staged value and does not change it (R144). -/
@[simp] theorem serviceAt_pval (c : Config) (cur : Option Nat) (x : Nat) (o : Osc) :
    (serviceAt c cur x o).pval = o.pval := by
  unfold serviceAt
  split
  · exact Osc.serviced_pval c o
  · rfl

/-- A tick services no oscillator but the cursor's (R124). -/
theorem serviceAt_of_ne {cur : Option Nat} {x : Nat} (h : cur ≠ some x) (c : Config) (o : Osc) :
    serviceAt c cur x o = o :=
  if_neg h

/-- Settles O10: without a write the record is the one phases A and B left, and an unserviced one only saw phase A. -/
theorem nowriteWritesNothing : Obligations.NowriteWritesNothing := by
  intro s u a
  refine ⟨_, rfl, rfl, rfl, rfl, fun x o ho => ?_⟩
  rw [tick_at, ho, Option.map_some, writeAt_of_no_write _ _ _ _ rfl]
  refine ⟨_, rfl, by simp, by simp, fun hserv => ?_⟩
  have hcur : serviceCursor s.sched (Inputs.nowrite u a).update ≠ some x :=
    fun h => hserv ((serviceCursor_eq_some s _ x).1 h)
  rw [serviceAt_of_ne hcur]
  simp

/-! ### The write group is phase C after the tick of NOWRITE (R102, R103, R120) -/

/-- A tick is that of NOWRITE with the same pulse and address, then the host write and its error. -/
theorem tick_eq_write_after_nowrite (p : Inputs) (s : State) :
    tick p s = { tick (.nowrite p.update p.address) s with
      osc := hostWrite s.cfg p (tick (.nowrite p.update p.address) s).osc
      inp := p
      out := { (tick (.nowrite p.update p.address) s).out with writeError := writeError s.cfg p } } := rfl

/-- A record that is not addressed, or any record when the address is out of range, keeps its value (R201). -/
theorem writeAt_of_unaddressed {c : Config} {p : Inputs} {x : Nat} (h : x ≠ p.address ∨ c.N ≤ p.address) (o : Osc) :
    writeAt c p x o = o := by
  refine if_neg ?_
  rintro ⟨-, hr, rfl⟩
  have hlt : p.address < c.N := by simpa [outOfRange] using hr
  exact h.elim (fun hne => hne rfl) (Nat.not_le.2 hlt)

/-- The accepted host write, by the register `select` names (R102, R103). -/
theorem writeAt_of_accepted {c : Config} {p : Inputs} (hw : p.writeEnable = true) (h : p.address < c.N) (o : Osc) :
    writeAt c p p.address o =
      if p.select then o.stage p.mask (wfdrValue p.dataIn) else { o with inc := p.dataIn } :=
  if_pos ⟨hw, decide_eq_false (Nat.not_le.2 h), rfl⟩

/-- An accepted WRPINC replaces the increment (R102). -/
theorem writeAt_wrpinc {c : Config} {a : Nat} (h : a < c.N) (u : Bool) (d : Word) (o : Osc) :
    writeAt c (.wrpinc u a d) a o = { o with inc := d } :=
  writeAt_of_accepted (p := .wrpinc u a d) rfl h o

/-- An accepted WRWFDR stages its masked bits (R103). -/
theorem writeAt_wrwfdr {c : Config} {a : Nat} (h : a < c.N) (u : Bool) (m v : Nibble) (o : Osc) :
    writeAt c (.wrwfdr u a m v) a o = o.stage m v :=
  (writeAt_of_accepted (p := .wrwfdr u a m v) rfl h o).trans (congrArg (o.stage m) (wfdrValue_setWidth v))

/-- Phase C changes no record but an addressed one in range (R201). -/
theorem hostWrite_at_unaddressed {c : Config} {p : Inputs} {x : Nat} (h : x ≠ p.address ∨ c.N ≤ p.address)
    (osc : List Osc) : (hostWrite c p osc)[x]? = osc[x]? := by
  rw [hostWrite_at, funext (writeAt_of_unaddressed h), Option.map_id']

/-- Settles O11: phase C of a WRPINC on the record that NOWRITE's tick left. -/
theorem wrpincWritesTheIncrement : Obligations.WrpincWritesTheIncrement := by
  intro s u a d
  refine ⟨_, _, rfl, rfl, fun ha => ?_, fun x hx => ?_, tick_eq_write_after_nowrite (.wrpinc u a d) s⟩
  · rw [tick_eq_write_after_nowrite (.wrpinc u a d), hostWrite_at, funext (writeAt_wrpinc ha u d)]
    rfl
  · rw [tick_eq_write_after_nowrite (.wrpinc u a d)]
    exact hostWrite_at_unaddressed hx _

/-- Settles O12: phase C of a WRWFDR stages on the record that NOWRITE's tick left. -/
theorem wrwfdrStagesTheMaskedBits : Obligations.WrwfdrStagesTheMaskedBits := by
  intro s u a m v
  refine ⟨_, _, rfl, rfl, fun ha o ho => ⟨o.stage m v, ?_, fun k hk => ⟨?_, ?_⟩, rfl⟩, fun x hx => ?_,
    tick_eq_write_after_nowrite (.wrwfdr u a m v) s⟩
  · rw [tick_eq_write_after_nowrite (.wrwfdr u a m v), hostWrite_at, funext (writeAt_wrwfdr ha u m v)]
    exact congrArg (Option.map _) ho
  · exact maskedReplace_bit o.pval m v k hk
  · exact BitVec.getLsbD_or
  · rw [tick_eq_write_after_nowrite (.wrwfdr u a m v)]
    exact hostWrite_at_unaddressed hx _

/-- The host changes an increment by an accepted WRPINC to the oscillator (R102). -/
theorem writeAt_inc (c : Config) (p : Inputs) (x : Nat) (o : Osc) : (writeAt c p x o).inc =
    if p.writeEnable ∧ ¬ p.select ∧ p.address = x ∧ x < c.N then p.dataIn else o.inc := by
  by_cases haddr : x ≠ p.address ∨ c.N ≤ p.address
  · rw [writeAt_of_unaddressed haddr, if_neg]
    rintro ⟨-, -, rfl, hN⟩
    exact haddr.elim (fun hne => hne rfl) (Nat.not_le.2 hN)
  · obtain ⟨rfl, hN⟩ : x = p.address ∧ p.address < c.N := by simpa using haddr
    cases hw : p.writeEnable
    · rw [writeAt_of_no_write _ _ _ _ hw]; simp
    · rw [writeAt_of_accepted hw hN]
      cases hsel : p.select <;> simp [hN]

/-- Settles O24: of a tick's three phases on a record, only the host write touches the increment. -/
theorem tickIncrement : Obligations.TickIncrement := by
  intro s x o ho
  refine ⟨_, _, exec_tick_eq s, by rw [tick_at, ho, Option.map_some], ?_⟩
  rw [writeAt_inc, serviceAt_inc, writebackAt_inc]

/-! ### READ (R104, R202) -/

/-- Two's-complement negation as a subtraction from 2^16 (R181). -/
theorem negateIf_eq_ofNat (d : Bool) (acc : Word) :
    negateIf d acc = if d then BitVec.ofNat 16 (2 ^ 16 - acc.toNat) else acc := by
  have hneg : -acc = BitVec.ofNat 16 (2 ^ 16 - acc.toNat) := BitVec.eq_of_toNat_eq (by simp)
  rw [negateIf_eq, hneg]

/-- Square's output is its top bit alone (R183). -/
theorem squareLevel_eq (d : Bool) (acc : Word) :
    squareLevel d acc = if acc.getLsbD 15 ≠ d then 0x8000 else 0x0000 := by
  unfold squareLevel
  cases acc.getLsbD 15 <;> cases d <;> rfl

/-- Every waveform field is the code of a waveform (R78). -/
theorem exists_code_eq (c : WaveCode) : ∃ W : Waveform, c = W.code :=
  ⟨.ofCode c, by revert c; decide⟩

/-- The decoded output, by the bits of the waveform field (R180 to R184). -/
theorem Osc.output_eq_by_wave (o : Osc) : o.output =
    if o.wave = 0b00 ∨ o.wave = 0b10 then (if o.dir then BitVec.ofNat 16 (2 ^ 16 - o.acc.toNat) else o.acc)
    else if o.wave = 0b01 then (if o.acc.getLsbD 15 ≠ o.dir then 0x8000 else 0x0000)
    else o.sin := by
  obtain ⟨W, hW⟩ := exists_code_eq o.wave
  rw [hW]
  refine (o.output_eq W hW).trans ?_
  cases W
  case ramp | triangle => exact negateIf_eq_ofNat o.dir o.acc
  case square => exact squareLevel_eq o.dir o.acc
  case sine => rfl

/-- In range, a read answers the decoded output (R104). -/
theorem readOut_of_osc {s : State} {a : Nat} {o : Osc} (ha : a < s.cfg.N) (ho : s.osc[a]? = some o) :
    readOut s a = .ok o.output := by
  simp [readOut, outOfRange, ha, ho]

/-- Out of range, a read answers the error (R202). -/
theorem readOut_of_outOfRange {s : State} {a : Nat} (ha : s.cfg.N ≤ a) : readOut s a = .outOfRange := by
  simp [readOut, outOfRange, ha]

/-- Settles O15: READ shows `readOut`, which decodes the record or answers the error. -/
theorem readShowsTheDecodedOutput : Obligations.ReadShowsTheDecodedOutput := by
  intro s a
  refine ⟨fun o ha ho => ?_, fun ha => ⟨?_, rfl⟩⟩
  · have herr : readError s.cfg a = false := decide_eq_false (Nat.not_le.2 ha)
    rw [exec_read_eq, readOut_of_osc ha ho, herr, Osc.output_eq_by_wave]
  · have herr : readError s.cfg a = true := decide_eq_true ha
    rw [exec_read_eq, readOut_of_outOfRange ha, herr]

/-! ### UPDATE (R105, R121) -/

/-- A tick reads the scheduler and the pulse only for the oscillator it services: two ticks with one cursor and one write
group differ in the recorded input ports alone (R120, R121). -/
theorem tick_eq_of_same_cursor {s : State} {p q : Inputs} {σ : Sched}
    (hcur : serviceCursor s.sched p.update = serviceCursor σ q.update) (hq : q = { p with update := q.update })
    (r : Inputs) : tick p s = { tick q { s with sched := σ, inp := r } with inp := p } := by
  have hwrite : hostWrite s.cfg q = hostWrite s.cfg p := by rw [hq]; rfl
  have herr : writeError s.cfg q = writeError s.cfg p := by rw [hq]; rfl
  have haddr : q.address = p.address := by rw [hq]
  simp only [tick, hcur, hwrite, herr, haddr]
  rfl

/-- Settles O16: the pulse gives an Idle scheduler the cursor of Servicing(0). -/
theorem updateFromIdleStartsTheSweep : Obligations.UpdateFromIdleStartsTheSweep := by
  intro s w sel m d a hidle
  have hcur : serviceCursor s.sched true = some 0 := by rw [hidle]; rfl
  refine ⟨_, _, rfl, exec_tick_eq _, tick_eq_of_same_cursor hcur rfl _, ?_⟩
  rw [tick_sched]
  exact congrArg (nextSched s.cfg) hcur

/-! ### Two writes with disjoint masks (R103) -/

/-- Two masked replaces with disjoint masks are one with the union mask. -/
theorem maskedReplace_maskedReplace {n : Nat} {m1 m2 : BitVec n} (h : m1 &&& m2 = 0) (old v1 v2 : BitVec n) :
    maskedReplace (maskedReplace old m1 v1) m2 v2 =
      maskedReplace old (m1 ||| m2) ((v1 &&& m1) ||| (v2 &&& m2)) := by
  ext k hk
  have hdisj : (m1[k] && m2[k]) = false := by simpa using congrArg (·[k]) h
  cases h1 : m1[k] <;> cases h2 : m2[k] <;> simp_all [maskedReplace]

/-- Two stagings with disjoint masks are one with the union mask. -/
theorem Osc.stage_stage {m1 m2 : Nibble} (h : m1 &&& m2 = 0) (o : Osc) (v1 v2 : Nibble) :
    (o.stage m1 v1).stage m2 v2 = o.stage (m1 ||| m2) ((v1 &&& m1) ||| (v2 &&& m2)) := by
  simp only [stage, maskedReplace_maskedReplace h, BitVec.or_assoc]

/-- Two WFDR writes to one oscillator with disjoint masks are one with the union mask. -/
theorem hostWrite_wrwfdr_wrwfdr {m1 m2 : Nibble} (h : m1 &&& m2 = 0) (c : Config) (u : Bool) (a : Nat)
    (v1 v2 : Nibble) (osc : List Osc) :
    hostWrite c (.wrwfdr u a m2 v2) (hostWrite c (.wrwfdr u a m1 v1) osc) =
      hostWrite c (.wrwfdr u a (m1 ||| m2) ((v1 &&& m1) ||| (v2 &&& m2))) osc := by
  refine List.ext_getElem? fun x => ?_
  rw [hostWrite_at, hostWrite_at, hostWrite_at, Option.map_map]
  refine congrArg (Option.map · _) (funext fun o => ?_)
  by_cases hx : x ≠ a ∨ c.N ≤ a
  · simp only [Function.comp_apply, writeAt_of_unaddressed (p := .wrwfdr u a _ _) hx]
  · obtain ⟨rfl, hN⟩ : x = a ∧ a < c.N := by simpa using hx
    simp only [Function.comp_apply, writeAt_wrwfdr hN, Osc.stage_stage h]

/-- The host write reads and changes nothing of the pair, so it commutes with an addition to the pair. -/
theorem accumulate_writeAt (c : Config) (p : Inputs) (x : Nat) (o : Osc) (sp cp : Word) :
    (writeAt c p x o).accumulate sp cp = writeAt c p x (o.accumulate sp cp) := by
  unfold writeAt
  split
  · cases p.select <;> rfl
  · rfl

/-- The order of a write-back and a host write to one record does not matter (R102, R103, R166). -/
theorem writebackAt_writeAt (c : Config) (p : Inputs) (w : Option Slot) (x : Nat) (o : Osc) :
    writebackAt w x (writeAt c p x o) = writeAt c p x (writebackAt w x o) := by
  unfold writebackAt
  split
  · split
    · exact accumulate_writeAt c p x o _ _
    · rfl
  · rfl

section
variable {p : Inputs} {cur : Option Nat} (h : cur ≠ some p.address) (c : Config) (w : Option Slot) (osc : List Osc)
include h

/-- A host write passes through the phases A and B of a tick that does not service its oscillator. -/
theorem phases_hostWrite : servicePhase c cur (writebackPhase w (hostWrite c p osc)) =
    hostWrite c p (servicePhase c cur (writebackPhase w osc)) := by
  refine List.ext_getElem? fun x => ?_
  simp only [servicePhase_at, writebackPhase_at, hostWrite_at, Option.map_map]
  refine congrArg (Option.map · _) (funext fun o => ?_)
  simp only [Function.comp_apply]
  by_cases hx : x = p.address
  · subst hx
    rw [serviceAt_of_ne h, serviceAt_of_ne h, writebackAt_writeAt]
  · rw [writeAt_of_unaddressed (.inl hx), writeAt_of_unaddressed (.inl hx)]

/-- A tick's request does not see a host write to an oscillator that it does not service (R160). -/
theorem requestPhase_hostWrite : requestPhase c cur (writebackPhase w (hostWrite c p osc)) =
    requestPhase c cur (writebackPhase w osc) := by
  cases cur with
  | none => rfl
  | some i =>
    have hi : i ≠ p.address := fun he => h (congrArg some he)
    simp only [requestPhase, writebackPhase_at, hostWrite_at_unaddressed (.inl hi)]

end

/-- A tick does the same to a state with a host write done before it, to an oscillator it does not service, as to the
state without; the write stays done, and only the recorded outputs may show it. -/
theorem tick_hostWrite {p : Inputs} {s : State} (u : Bool) (a : Nat)
    (h : serviceCursor s.sched u ≠ some p.address) :
    ∃ out, tick (.nowrite u a) { s with osc := hostWrite s.cfg p s.osc } =
      { tick (.nowrite u a) s with osc := hostWrite s.cfg p (tick (.nowrite u a) s).osc, out := out } := by
  refine ⟨_, (State.mk.injEq ..).mpr ⟨rfl, ?_, ?_, rfl, rfl, rfl, rfl, rfl⟩⟩
  · exact phases_hostWrite h s.cfg _ s.osc
  · exact congrArg (shiftPhase s.cfg · s.pipe) (requestPhase_hostWrite h s.cfg _ s.osc)

/-- Where neither the cursor nor the one after it is `a`, the next tick without a pulse does not service `a` (R122). -/
theorem serviceCursor_nextSched_ne {c : Config} {cur : Option Nat} {a : Nat} (h : ∀ i, cur = some i → i + 1 ≠ a) :
    serviceCursor (nextSched c cur) false ≠ some a := by
  cases cur with
  | none => simp [nextSched, serviceCursor]
  | some i =>
    have hi := h i rfl
    dsimp only [nextSched]
    split
    · exact fun he => hi (Option.some.inj he)
    · exact nofun

/-- Settles O60: the first write passes through the second tick, and there the two are one write. -/
theorem disjointWritesCombine : Obligations.DisjointWritesCombine := by
  intro s a m1 v1 m2 v2 hdisj hfar
  have hcur : serviceCursor (tick (.nowrite false a) s).sched false ≠ some a := by
    refine serviceCursor_nextSched_ne fun i hi => ?_
    obtain hs | ⟨-, hu, -⟩ := (serviceCursor_eq_some s (.nowrite false a) i).1 hi
    · obtain ⟨-, hnext⟩ := hfar i hs
      exact hnext
    · cases hu
  obtain ⟨out, hout⟩ := tick_hostWrite (p := .wrwfdr false a m1 v1) false a hcur
  refine ⟨_, _, rfl, rfl, (State.mk.injEq ..).mpr ⟨rfl, ?_, ?_, rfl, rfl, rfl, rfl, rfl⟩⟩
  · exact (congrArg (fun t => hostWrite s.cfg (.wrwfdr false a m2 v2) t.osc) hout).trans
      (hostWrite_wrwfdr_wrwfdr hdisj s.cfg false a v1 v2 _)
  · exact (congrArg State.pipe hout :)

end Sys2Proof.Machine
end

section
/-!
The statements of 41_scheduler.md: a sweep services every oscillator in its turn, what a tick does to the scheduler, the
accumulator and the direction, and that the tick and the service are their internal operations in order.
-/
namespace Sys2Proof.Machine

/-! ### What a step does to the scheduler and the script (R121, R122; log entry 3) -/

/-- A step moves the scheduler on from the oscillator it services (R122). -/
theorem step_sched {s t : State} (h : step s = .next t) : t.sched = nextSched s.cfg s.services := by
  obtain ⟨p, rfl⟩ := step_next_tick h
  rfl

theorem step_cfg {s t : State} (h : step s = .next t) : t.cfg = s.cfg := by
  obtain ⟨p, rfl⟩ := step_next_tick h
  rfl

theorem step_script {s t : State} (h : step s = .next t) : t.script = s.script.tail := by
  obtain ⟨p, rfl⟩ := step_next_tick h
  rfl

/-- The coming word is one of the script or the idle word. -/
theorem fetch_cases (s : State) : s.fetch ∈ s.script ∨ s.fetch = idleWord := by
  unfold State.fetch
  cases s.script with
  | nil => exact .inr rfl
  | cons w l => exact .inl List.mem_cons_self

/-- The ports can carry the idle word, whatever their width (R9, R81). -/
theorem idleWord_fits (c : Config) : idleWord.fits c = true := by
  simp [HostWord.fits, idleWord]

theorem State.ScriptFits.fetch {s : State} (h : s.ScriptFits) : s.fetch.fits s.cfg = true := by
  obtain hmem | hidle := fetch_cases s
  · exact List.all_eq_true.1 h _ hmem
  · rw [hidle]; exact idleWord_fits s.cfg

/-- A word the ports can carry decodes, to an instruction whose address the port holds; such a step answers a state. -/
theorem exists_step {s : State} (h : s.ScriptFits) : ∃ t, step s = .next t := by
  obtain ⟨hpad, haddr⟩ : s.fetch.hc.getLsbD 23 = false ∧ s.fetch.address < 2 ^ s.cfg.addrW := by
    simpa [HostWord.fits] using h.fetch
  obtain ⟨j, hj⟩ := exists_decode_of_padding hpad
  have hwf : j.wf s.cfg = true := by simp [Instr.wf, decode_portAddress hj, haddr]
  obtain ⟨p, hp⟩ := exec_decoded hj s.taken
  exact ⟨_, (stepRunsDecodedInstruction s j hj hwf).trans hp⟩

/-! ### A sweep of steps (R121, R122) -/

/-- Under the cursor, the pulse does not matter (R123). -/
theorem services_of_servicing {s : State} {i : Nat} (h : s.sched = .servicing i) : s.services = some i := by
  rw [State.services, h]; rfl

/-- In a state whose coming step services oscillator 0, step `x` of the run services oscillator `x`: it comes next after
`x` steps. -/
theorem steps_services {s : State} (hs : s.Inv) (hfits : s.ScriptFits) (h0 : s.services = some 0) (x : Nat)
    (hx : x < s.cfg.N) :
    ∃ t, steps x s = .next t ∧ t.services = some x ∧ t.cfg = s.cfg ∧ t.Inv ∧ t.ScriptFits := by
  induction x with
  | zero => exact ⟨s, rfl, h0, rfl, hs, hfits⟩
  | succ x ih =>
    obtain ⟨t, hrun, hserv, hcfg, ht, htfits⟩ := ih (by omega)
    obtain ⟨u, hu⟩ := exists_step htfits
    obtain ⟨huinv, hufits⟩ := everyStepKeepsTheInvariant t u ht htfits hu
    have hsched : u.sched = .servicing (x + 1) := by
      rw [step_sched hu, hserv, nextSched, hcfg, if_pos hx]
    exact ⟨u, steps_succ_of_step x s t u hrun hu, services_of_servicing hsched, (step_cfg hu).trans hcfg,
      huinv, hufits⟩

/-- Settles O56: each tick of the sweep moves the cursor on, and the tick of the last oscillator ends Idle. -/
theorem sweepServicesEachOscillatorInItsTick : Obligations.SweepServicesEachOscillatorInItsTick := by
  intro s hs hfits hidle hpulse
  have h0 : s.services = some 0 := by rw [State.services, hidle, hpulse]; rfl
  refine ⟨fun x hx => ?_, ?_⟩
  · obtain ⟨t, hrun, hserv, -⟩ := steps_services hs hfits h0 x hx
    exact ⟨t, hrun, hserv⟩
  · obtain ⟨n, hn⟩ := Nat.exists_eq_add_one.2 hs.N_pos
    obtain ⟨t, hrun, hserv, hcfg, -, htfits⟩ := steps_services hs hfits h0 n (by omega)
    obtain ⟨u, hu⟩ := exists_step htfits
    refine ⟨u, hn ▸ steps_succ_of_step n s t u hrun hu, ?_⟩
    rw [step_sched hu, hserv, nextSched, hcfg, if_neg (by omega)]

/-! ### The accumulator over a run (R125) -/

/-- What a record's accumulator counts modulo 2^16: it is off Triangle, nothing is staged, and no coming word of the
script writes it. -/
structure CountsServices (s : State) (x : Nat) (o : Osc) : Prop where
  osc : s.osc[x]? = some o
  wave : o.wave ≠ 0b10
  pmask : o.pmask = 0
  unwritten : ∀ w ∈ s.script, w.writeBit = true → w.address ≠ x

/-- With an empty mask nothing is replaced (R141). -/
theorem maskedReplace_zero {n : Nat} (old v : BitVec n) : maskedReplace old 0#n v = old := by
  simp [maskedReplace]

/-- With nothing staged, a service merges nothing (R141). -/
theorem Osc.serviced_wave_of_unstaged {o : Osc} (c : Config) (h : o.pmask = 0) : (o.serviced c).wave = o.wave := by
  rw [Osc.serviced_wave, h]
  exact maskedReplace_zero o.wave _

/-- Off Triangle and with nothing staged, a service adds the increment (R125). -/
theorem Osc.serviced_acc_of_unstaged {o : Osc} (c : Config) (hmask : o.pmask = 0) (hwave : o.wave ≠ 0b10) :
    (o.serviced c).acc.toNat = (o.acc.toNat + o.inc.toNat) % 2 ^ 16 := by
  rw [Osc.serviced_acc_toNat, hmask, if_neg hwave]
  rfl

/-- Phase C changes no record but the one an accepted write addresses (R102, R103, R201). -/
theorem writeAt_of_unwritten {c : Config} {p : Inputs} {x : Nat}
    (h : ¬ (p.writeEnable = true ∧ p.address = x ∧ x < c.N)) (o : Osc) : writeAt c p x o = o := by
  refine if_neg ?_
  rintro ⟨hw, hin, rfl⟩
  exact h ⟨hw, rfl, by simpa [outOfRange] using hin⟩

/-- A host that does not write `x` leaves the record of `x` to the other phases (R102, R103). -/
theorem CountsServices.writeAt_fetch {s : State} {x : Nat} {o : Osc} (h : CountsServices s x o) (o' : Osc) :
    writeAt s.cfg s.fetch.inputs x o' = o' := by
  refine writeAt_of_unwritten ?_ o'
  rintro ⟨hw : s.fetch.writeBit = true, haddr, -⟩
  obtain hmem | hidle := fetch_cases s
  · exact h.unwritten _ hmem hw haddr
  · rw [hidle] at hw; cases hw

/-- A step adds the increment if it services the record, and keeps everything the count rests on. -/
theorem CountsServices.step {s t : State} {x : Nat} {o : Osc} (h : CountsServices s x o) (ht : step s = .next t) :
    ∃ o', CountsServices t x o' ∧ o'.inc = o.inc ∧
      o'.acc.toNat = (o.acc.toNat + (if s.services = some x then 1 else 0) * o.inc.toNat) % 2 ^ 16 := by
  have hosc := step_at ht x
  rw [h.osc, Option.map_some, h.writeAt_fetch] at hosc
  have hscript : ∀ w ∈ t.script, w.writeBit = true → w.address ≠ x := fun w hw =>
    h.unwritten w (List.mem_of_mem_tail (step_script ht ▸ hw))
  set a := writebackAt (oldest s.cfg s.pipe) x o
  have hwave : a.wave = o.wave := writebackAt_wave _ x o
  have hmask : a.pmask = 0 := (writebackAt_pmask _ x o).trans h.pmask
  have hinc : a.inc = o.inc := writebackAt_inc _ x o
  have hacc : a.acc = o.acc := writebackAt_acc _ x o
  by_cases hserv : s.services = some x
  · rw [serviceAt, if_pos hserv] at hosc
    refine ⟨_, ⟨hosc, ?_, Osc.serviced_pmask _ a, hscript⟩, (Osc.serviced_inc _ a).trans hinc, ?_⟩
    · rw [Osc.serviced_wave_of_unstaged _ hmask, hwave]; exact h.wave
    · rw [Osc.serviced_acc_of_unstaged _ hmask (hwave ▸ h.wave), hacc, hinc, if_pos hserv, one_mul]
  · rw [serviceAt_of_ne hserv] at hosc
    refine ⟨_, ⟨hosc, hwave ▸ h.wave, hmask, hscript⟩, hinc, ?_⟩
    rw [hacc, if_neg hserv, zero_mul, add_zero, Nat.mod_eq_of_lt o.acc.isLt]

/-- A run of at least one step is a step and the rest of the run. -/
theorem steps_succ_next {k : Nat} {s u : State} (h : steps (k + 1) s = .next u) :
    ∃ t, step s = .next t ∧ steps k t = .next u := by
  rw [steps] at h
  cases ht : step s with
  | next t => rw [ht] at h; exact ⟨t, rfl, h⟩
  | fault r => rw [ht] at h; cases h
  | refused r => rw [ht] at h; cases h

theorem serviceCount_succ {x k : Nat} {s t : State} (h : step s = .next t) :
    serviceCount x (k + 1) s = (if s.services = some x then 1 else 0) + serviceCount x k t := by
  rw [serviceCount, h]

/-- Settles O59, by induction on the number of steps. -/
theorem accumulatorCountsServicesModulo : Obligations.AccumulatorCountsServicesModulo := by
  intro k s t x o hrun hosc hwave hmask hwrites
  have hcounts : CountsServices s x o := ⟨hosc, hwave, hmask, hwrites⟩
  clear hosc hwave hmask hwrites
  induction k generalizing s o with
  | zero =>
    cases hrun
    refine ⟨o, hcounts.osc, ?_⟩
    rw [serviceCount, zero_mul, add_zero, Nat.mod_eq_of_lt o.acc.isLt]
  | succ k ih =>
    obtain ⟨u, hu, hrest⟩ := steps_succ_next hrun
    obtain ⟨o1, hcounts1, hinc1, hacc1⟩ := hcounts.step hu
    obtain ⟨o', ho', hacc⟩ := ih u o1 hrest hcounts1
    refine ⟨o', ho', ?_⟩
    rw [hacc, hacc1, hinc1, serviceCount_succ hu, Nat.mod_add_mod, Nat.add_mul, Nat.add_assoc]

/-! ### The pulse (R123) -/

/-- Settles O17: under the cursor a tick services the same oscillator with the pulse and without it. -/
theorem updateDuringSweepHasNoEffect : Obligations.UpdateDuringSweepHasNoEffect := by
  intro s w sel m d a i hi
  have hcur : serviceCursor s.sched true = serviceCursor s.sched false := by rw [hi]; rfl
  exact ⟨_, _, rfl, exec_tick_eq _, tick_eq_of_same_cursor hcur rfl _⟩

/-! ### The tick, field by field -/

/-- The host write touches a record's increment and staged bits alone (R102, R103). -/
theorem writeAt_frame (c : Config) (p : Inputs) (x : Nat) (o : Osc) : writeAt c p x o = { o with
    inc := (writeAt c p x o).inc, pval := (writeAt c p x o).pval, pmask := (writeAt c p x o).pmask } :=
  (Osc.mk.injEq ..).mpr ⟨rfl, writeAt_acc c p x o, writeAt_wave c p x o, writeAt_dir c p x o, writeAt_sin c p x o,
    writeAt_cos c p x o, rfl, rfl⟩

/-- Without a cursor a tick services nothing (R121). -/
theorem serviceAt_none (c : Config) (x : Nat) (o : Osc) : serviceAt c none x o = o :=
  serviceAt_of_ne (Option.some_ne_none x).symm c o

/-- Settles O19: without a cursor, phase B does nothing. -/
theorem idleTickServicesNothing : Obligations.IdleTickServicesNothing := by
  intro s hidle hpulse
  have hcur : serviceCursor s.sched s.inp.update = none := by rw [hidle, hpulse]; rfl
  refine ⟨_, exec_tick_eq s, ?_, fun hD => ?_, tick_osc_length s.inp s, fun x o ho => ?_⟩
  · rw [tick_sched, hcur]; rfl
  · rw [tick_pipe, hcur, shiftPhase_zero _ _ _ hD]; rfl
  · refine ⟨_, by rw [tick_at, ho, Option.map_some], ?_, fun hno => ?_⟩
    · rw [hcur, serviceAt_none, writebackAt_oldest]
      exact writeAt_frame ..
    · rw [writeAt_of_unwritten hno, hcur, serviceAt_none]
      exact ⟨writebackAt_inc _ x o, writebackAt_pval _ x o, writebackAt_pmask _ x o⟩

theorem serviceAt_of_services {s : State} {p : Inputs} {x : Nat} (h : Services s p x) (o : Osc) :
    serviceAt s.cfg (serviceCursor s.sched p.update) x o = o.serviced s.cfg :=
  if_pos ((serviceCursor_eq_some s p x).2 h)

theorem serviceAt_of_not_services {s : State} {p : Inputs} {x : Nat} (h : ¬ Services s p x) (o : Osc) :
    serviceAt s.cfg (serviceCursor s.sched p.update) x o = o :=
  if_neg (mt (serviceCursor_eq_some s p x).1 h)

/-- Settles O20: of a tick's three phases on a record, only the service touches the accumulator. -/
theorem tickAccumulator : Obligations.TickAccumulator := by
  intro s x o ho
  refine ⟨_, _, exec_tick_eq s, by rw [tick_at, ho, Option.map_some], ?_⟩
  rw [writeAt_acc]
  refine ⟨fun hserv => ?_, fun hserv hreset => ?_, fun hserv hreset => ?_⟩
  · rw [serviceAt_of_not_services hserv, writebackAt_acc]
  · rw [serviceAt_of_services hserv, Osc.serviced_acc, writebackAt_pmask, writebackAt_pval]
    exact if_pos hreset
  · rw [serviceAt_of_services hserv, Osc.serviced_acc_toNat, writebackAt_pmask, writebackAt_pval,
      if_neg (Bool.eq_false_iff.1 hreset), writebackAt_acc, writebackAt_wave, writebackAt_inc]

/-- The direction after a service: the staged one, or flipped by an odd number of wraps on Triangle (R126, R142). -/
theorem Osc.serviced_dir_eq (c : Config) (o : Osc) : (o.serviced c).dir =
    if o.pmask.getLsbD 1 = true then o.pval.getLsbD 1
    else o.dir ^^ (decide (o.sum.toNat / 2 ^ 16 % 2 = 1) && decide (o.wave = 0b10)) := by
  rw [Osc.serviced_dir, phaseOvf_eq]
  rfl

/-- Settles O21: of a tick's three phases on a record, only the service touches the direction. -/
theorem tickDirection : Obligations.TickDirection := by
  intro s x o ho
  refine ⟨_, _, exec_tick_eq s, by rw [tick_at, ho, Option.map_some], ?_⟩
  rw [writeAt_dir]
  refine ⟨fun hserv => ?_, fun hserv hmask => ?_, fun hserv hmask hwave => ?_, fun hserv hmask hwave => ?_⟩
  · rw [serviceAt_of_not_services hserv, writebackAt_dir]
  all_goals rw [serviceAt_of_services hserv, Osc.serviced_dir_eq, writebackAt_pmask, hmask, writebackAt_wave]
  · rw [if_pos rfl, writebackAt_pval]
  · rw [decide_eq_false hwave, Bool.and_false, Bool.xor_false, writebackAt_dir]; rfl
  · simp [Osc.sum_toNat, hwave]

/-- Settles O18: the scheduler after a tick depends on its cursor alone. -/
theorem tickMovesTheScheduler : Obligations.TickMovesTheScheduler := by
  intro s
  refine ⟨_, exec_tick_eq s, fun i hi => ?_, fun hidle hpulse => ?_, rfl, rfl, rfl⟩
  · rw [tick_sched, (serviceCursor_eq_some s s.inp i).2 hi]; rfl
  · rw [tick_sched, hidle, hpulse]; rfl

/-! ### The rows of the scheduler (R121 to R123) -/

/-- SWEEP_START moves an Idle scheduler with the pulse on the port to oscillator 0 (R121). -/
theorem exec_sweepStart_eq (s : State) : exec .sweepStart s = .next { s with
    sched := if s.sched = .idle ∧ s.inp.update = true then .servicing 0 else s.sched } := by
  show execSweepStart s = _
  unfold execSweepStart
  split
  next hidle hpulse => rw [if_pos ⟨hidle, hpulse⟩]
  next hnot => rw [if_neg fun h => hnot h.1 h.2]

/-- SWEEP_ADVANCE moves the scheduler on from the cursor's oscillator (R122). -/
theorem exec_sweepAdvance_eq {s : State} {cur : Option Nat} (hcur : serviceCursor s.sched false = cur) :
    exec .sweepAdvance s = .next { s with sched := nextSched s.cfg cur } := by
  subst hcur
  show execSweepAdvance s = _
  unfold execSweepAdvance
  split
  next i hi => rw [hi]; rfl
  next hidle =>
    have hstay : nextSched s.cfg (serviceCursor s.sched false) = s.sched := by rw [hidle]; rfl
    rw [hstay]

/-- Settles O27, from what the two rows do to the scheduler. -/
theorem sweepStateMachine : Obligations.SweepStateMachine := by
  intro s
  refine ⟨fun hidle hpulse => ?_, fun hnot => ?_, fun i hi hlt => ?_, fun i hi hlast => ?_, fun hidle => ?_, rfl⟩
  · rw [exec_sweepStart_eq, if_pos ⟨hidle, hpulse⟩]
  · have hno : ¬ (s.sched = .idle ∧ s.inp.update = true) := by
      rintro ⟨hidle, hpulse⟩
      exact hnot.elim (· hidle) fun h => Bool.noConfusion (h.symm.trans hpulse)
    rw [exec_sweepStart_eq, if_neg hno]
  · rw [exec_sweepAdvance_eq (cur := some i) (by rw [hi]; rfl), nextSched, if_pos hlt]
  · rw [exec_sweepAdvance_eq (cur := some i) (by rw [hi]; rfl), nextSched, if_neg hlast]
  · rw [exec_sweepAdvance_eq (cur := none) (by rw [hidle]; rfl), nextSched, ← hidle]

/-! ### The rows on the cursor's oscillator (R124 to R126, R140, R145, R160) -/

section
variable {s : State} {i : Nat} {o : Osc} (hs : s.sched = .servicing i) (ho : s.osc[i]? = some o)
include hs ho

theorem exec_phaseAdvance_at : exec .phaseAdvance s =
    .next { s.setOsc i { o with acc := phaseAcc o.sum } with sig := { s.sig with ovf := phaseOvf o.sum } } :=
  congrArg Host.Outcome.next (onCursor_eq s _ i o hs ho)

theorem exec_triangleFlip_at :
    exec .triangleFlip s = .next (s.setOsc i { o with dir := flipDir o.wave o.dir s.sig.ovf }) :=
  congrArg Host.Outcome.next (onCursor_eq s _ i o hs ho)

theorem exec_resetRequest_at :
    exec .resetRequest s = .next { s with sig := { s.sig with rr := o.resetRequest } } :=
  congrArg Host.Outcome.next (onCursor_eq s _ i o hs ho)

theorem exec_issue_at :
    exec .issue s = .next { s with sig := { s.sig with req := o.request s.cfg i s.sig.rr } } :=
  congrArg Host.Outcome.next (onCursor_eq s _ i o hs ho)

theorem exec_merge_at : exec .merge s =
    .next { s.setOsc i (o.merge s.cfg o.pmask o.pval) with sig := { s.sig with rr := o.resetRequest } } :=
  congrArg Host.Outcome.next (onCursor_eq s _ i o hs ho)

theorem exec_service_at : exec .service s = .next { s.setOsc i (o.serviced s.cfg) with
    sig := { s.sig with
      ovf := phaseOvf o.sum, rr := o.resetRequest, req := o.request s.cfg i o.resetRequest } } :=
  congrArg Host.Outcome.next (onCursor_eq s _ i o hs ho)

end

/-- The record under the cursor after it is replaced is the new one. -/
theorem setOsc_at {s : State} {i : Nat} {o : Osc} (ho : s.osc[i]? = some o) (o' : Osc) :
    (s.setOsc i o').osc[i]? = some o' := by
  obtain ⟨hi, -⟩ := List.getElem?_eq_some_iff.1 ho
  exact List.getElem?_set_self hi

/-- No record stands under the cursor: the scheduler is Idle, or its cursor is past the register file. -/
def NoCursor (s : State) : Prop := ∀ i, s.sched = .servicing i → s.osc[i]? = none

theorem cursor_cases (s : State) : NoCursor s ∨ ∃ i o, s.sched = .servicing i ∧ s.osc[i]? = some o := by
  refine or_iff_not_imp_left.2 fun h => ?_
  simp only [NoCursor, not_forall] at h
  obtain ⟨i, hi, hsome⟩ := h
  obtain ⟨o, ho⟩ := Option.ne_none_iff_exists'.1 hsome
  exact ⟨i, o, hi, ho⟩

theorem NoCursor.onCursor_eq {s : State} (h : NoCursor s) (f : Nat → Osc → State) : onCursor s f = s := by
  obtain hsame | ⟨i, o, hi, ho, -⟩ := onCursor_cases s f
  · exact hsame
  · cases ho.symm.trans (h i hi)

/-- Settles O28: the sum is exact in its 18 bits. -/
theorem phaseAdvanceSums : Obligations.PhaseAdvanceSums := by
  intro s i o hs ho sum
  have hsum : o.sum.toNat = sum := o.sum_toNat
  have hacc : phaseAcc o.sum = BitVec.ofNat 16 (sum % 2 ^ 16) := by
    rw [← hsum, ← phaseAcc_toNat, BitVec.ofNat_toNat, BitVec.setWidth_eq]
  rw [exec_phaseAdvance_at hs ho, hacc, phaseOvf_eq, hsum]
  rfl

/-- The triangle flip as a choice (R126). -/
theorem flipDir_eq (wave : WaveCode) (dir ovf : Bool) :
    flipDir wave dir ovf = if wave = Waveform.triangle.code ∧ ovf = true then !dir else dir := by
  by_cases hw : wave = Waveform.triangle.code <;> cases ovf <;> simp [flipDir, hw]

/-- Settles O29: the exclusive or of R126 flips the direction when both its conditions hold. -/
theorem triangleFlipFlipsOnOverflow : Obligations.TriangleFlipFlipsOnOverflow := by
  intro s i o hs ho
  rw [exec_triangleFlip_at hs ho, flipDir_eq]
  rfl

/-- Rows that each leave the state as it is leave it so together. -/
theorem execAll_of_forall_next {l : List Instr} {s : State} (h : ∀ j ∈ l, exec j s = .next s) :
    execAll l s = .next s := by
  induction l with
  | nil => rfl
  | cons j l ih =>
    rw [execAll_cons j l s s (h j List.mem_cons_self)]
    exact ih fun i hi => h i (List.mem_cons_of_mem j hi)

/-- Settles O30: after the first two rows the record is the advanced one, whose staged bits, waveform, increment and
pair are those before the service. -/
theorem serviceIsItsSteps : Obligations.ServiceIsItsSteps := by
  intro s
  obtain hnone | ⟨i, o, hs, ho⟩ := cursor_cases s
  · refine ⟨s, congrArg Host.Outcome.next (hnone.onCursor_eq _), execAll_of_forall_next fun j hj => ?_⟩
    fin_cases hj <;> exact congrArg Host.Outcome.next (hnone.onCursor_eq _)
  · refine ⟨_, exec_service_at hs ho, ?_⟩
    have hsum := setOsc_at ho { o with acc := phaseAcc o.sum }
    have hadv := setOsc_at hsum o.advance
    calc execAll [.phaseAdvance, .triangleFlip, .resetRequest, .issue, .merge] s
        = _ := execAll_cons _ _ _ _ (exec_phaseAdvance_at hs ho)
      _ = _ := execAll_cons _ _ _ _ (exec_triangleFlip_at hs hsum)
      _ = _ := execAll_cons _ _ _ _ (exec_resetRequest_at hs hadv)
      _ = _ := execAll_cons _ _ _ _ (exec_issue_at hs hadv)
      _ = _ := execAll_cons _ _ _ _ (exec_merge_at hs hadv)
      _ = _ := by simp only [execAll, State.setOsc, List.set_set]; rfl

/-! ### The phases of a tick are rows (R120, R205) -/

/-- The cursor after SWEEP_START is the oscillator that a tick with the pulse on the port services (R121, R123). -/
theorem serviceCursor_sweepStart (σ : Sched) (u : Bool) :
    serviceCursor (if σ = .idle ∧ u = true then .servicing 0 else σ) false = serviceCursor σ u := by
  cases σ <;> cases u <;> rfl

section
variable {s : State} (h : NoCursor s)
include h

theorem NoCursor.servicePhase_eq : servicePhase s.cfg (serviceCursor s.sched false) s.osc = s.osc := by
  cases hs : s.sched with
  | idle => rfl
  | servicing i => exact List.modify_eq_self (List.getElem?_eq_none_iff.1 (h i hs))

theorem NoCursor.requestPhase_eq : requestPhase s.cfg (serviceCursor s.sched false) s.osc = .empty := by
  cases hs : s.sched with
  | idle => rfl
  | servicing i => simp only [serviceCursor, requestPhase, h i hs]

theorem NoCursor.noIssueSelected : noIssueSelected s = true := by
  unfold Machine.noIssueSelected
  cases hs : s.sched with
  | idle => rfl
  | servicing i => simp only [h i hs]

end

/-- NO_ISSUE and then SERVICE are phase B under the scheduler's cursor, whatever signals stand before: one of the two
sets the request (R124, R160, R164). -/
theorem noIssue_then_service {s : State} {cur : Option Nat} (hcur : serviceCursor s.sched false = cur) :
    ∃ t g, exec .noIssue s = .next t ∧
      exec .service t = .next { s with osc := servicePhase s.cfg cur s.osc, sig := g } ∧
      g.req = requestPhase s.cfg cur s.osc := by
  subst hcur
  obtain hnone | ⟨i, o, hs, ho⟩ := cursor_cases s
  · refine ⟨{ s with sig := { s.sig with req := .empty } }, { s.sig with req := .empty }, ?_, ?_, ?_⟩
    · exact congrArg Host.Outcome.next (if_pos hnone.noIssueSelected)
    · have hnone' : NoCursor { s with sig := { s.sig with req := .empty } } := hnone
      rw [hnone.servicePhase_eq]
      exact congrArg Host.Outcome.next (hnone'.onCursor_eq _)
    · exact hnone.requestPhase_eq.symm
  · obtain ⟨g, hg⟩ : ∃ g, exec .noIssue s = .next { s with sig := g } := by
      by_cases hsel : noIssueSelected s = true
      · exact ⟨_, congrArg Host.Outcome.next (if_pos hsel)⟩
      · exact ⟨s.sig, congrArg Host.Outcome.next (if_neg hsel)⟩
    have hosc : servicePhase s.cfg (serviceCursor s.sched false) s.osc = s.osc.set i (o.serviced s.cfg) := by
      rw [hs]; exact modify_eq_set s.osc i o _ ho
    have hreq : requestPhase s.cfg (serviceCursor s.sched false) s.osc = o.request s.cfg i o.resetRequest := by
      simp only [hs, serviceCursor, requestPhase, ho]
    rw [hosc, hreq]
    exact ⟨_, { g with ovf := phaseOvf o.sum, rr := o.resetRequest, req := o.request s.cfg i o.resetRequest }, hg,
      exec_service_at (s := { s with sig := g }) hs ho, rfl⟩

/-- A tick's state after its phases A and B, before the host write and the shift, with the signals `g` standing
(R120). -/
def afterService (s : State) (g : Signals) : State :=
  let cur := serviceCursor s.sched s.inp.update
  { s with
    osc := servicePhase s.cfg cur (writebackPhase (oldest s.cfg s.pipe) s.osc)
    sched := nextSched s.cfg cur
    out := { s.out with dataOut := readOut s s.inp.address, readError := readError s.cfg s.inp.address }
    sig := g }

/-- The rows of phases A and B reach that state, with the tick's request (R120, R205). -/
theorem execAll_afterService (s : State) : ∃ g,
    execAll [.read s.inp.address, .writeback, .sweepStart, .noIssue, .service, .sweepAdvance] s =
      .next (afterService s g) ∧
    g.req = requestPhase s.cfg (serviceCursor s.sched s.inp.update) (writebackPhase (oldest s.cfg s.pipe) s.osc) := by
  have hcur := serviceCursor_sweepStart s.sched s.inp.update
  obtain ⟨t, g, hno, hserv, hreq⟩ := noIssue_then_service (s := { s with
    osc := writebackPhase (oldest s.cfg s.pipe) s.osc
    sched := if s.sched = .idle ∧ s.inp.update = true then .servicing 0 else s.sched
    out := { s.out with dataOut := readOut s s.inp.address, readError := readError s.cfg s.inp.address } }) hcur
  refine ⟨g, ?_, hreq⟩
  calc execAll [.read s.inp.address, .writeback, .sweepStart, .noIssue, .service, .sweepAdvance] s
      = _ := execAll_cons _ _ _ _ (exec_read_eq s.inp.address s)
    _ = _ := execAll_cons _ _ _ _ rfl
    _ = _ := execAll_cons _ _ _ _ (exec_sweepStart_eq _)
    _ = _ := execAll_cons _ _ _ _ hno
    _ = _ := execAll_cons _ _ _ _ hserv
    _ = _ := execAll_cons _ _ _ _ (exec_sweepAdvance_eq hcur)

/-- Settles O31: after phases A and B, the host write and SHIFT are phases C and D. -/
theorem tickIsItsPhases : Obligations.TickIsItsPhases := by
  intro s
  obtain ⟨g, hrows, hreq⟩ := execAll_afterService s
  refine ⟨_, _, exec_tick_eq s, hrows, congrArg Host.Outcome.next ?_⟩
  exact (State.mk.injEq ..).mpr ⟨rfl, rfl, congrArg (shiftPhase s.cfg · s.pipe) hreq, rfl, rfl, rfl, rfl, rfl⟩

end Sys2Proof.Machine
end

section
/-!
The statements of 42_deferred_write.md: what a service merges of the staged bits, what its reset does to the pair, and the
rows of the merge.
-/
namespace Sys2Proof.Machine

/-! ### The staged fields, bit by bit (R141) -/

/-- The merge replaces each waveform bit under its own mask bit (R141). -/
theorem mergedWave_bit (old : WaveCode) (pm pv : Nibble) {k : Nat} (h : k < 2) :
    (maskedReplace old (waveField pm) (waveField pv)).getLsbD k =
      if pm.getLsbD (k + 2) then pv.getLsbD (k + 2) else old.getLsbD k := by
  have hfield (v : Nibble) : (waveField v).getLsbD k = v.getLsbD (k + 2) := by
    simp [waveField, h, Nat.add_comm]
  rw [maskedReplace_bit _ _ _ _ h, hfield, hfield]

/-- With neither waveform bit staged the merge keeps the waveform (R141). -/
theorem mergedWave_of_unstaged (old : WaveCode) {pm : Nibble} (pv : Nibble)
    (h2 : pm.getLsbD 2 = false) (h3 : pm.getLsbD 3 = false) :
    maskedReplace old (waveField pm) (waveField pv) = old := by
  refine BitVec.eq_of_getLsbD_eq fun k hk => ?_
  have hmask : pm.getLsbD (k + 2) = false := by
    obtain rfl | rfl : k = 0 ∨ k = 1 := by omega
    · exact h2
    · exact h3
  rw [mergedWave_bit old pm pv hk, hmask]
  rfl

/-! ### A service with and without a reset request (R143, R160) -/

/-- The reset of a service uses the direction that the service leaves (R143, R145). -/
theorem Osc.serviced_cos_of_reset (c : Config) {o : Osc} (h : o.resetRequest = true) :
    (o.serviced c).cos = if (o.serviced c).dir then negOne c else one c := by
  rw [Osc.serviced_cos, Osc.serviced_dir]
  exact if_pos h

/-- A service without a reset request leaves the pair as phase A left it (R143). -/
theorem Osc.serviced_pair_of_no_reset (c : Config) {o : Osc} (h : ¬ o.resetRequest = true) :
    (o.serviced c).sin = o.sin ∧ (o.serviced c).cos = o.cos := by
  rw [Osc.serviced_sin, Osc.serviced_cos]
  exact ⟨if_neg h, if_neg h⟩

/-- A reset request suppresses the issue (R160). -/
theorem Osc.request_of_reset (c : Config) (o : Osc) (i : Nat) : o.request c i true = .empty := by
  simp [Osc.request, issues]

/-- A write-back leaves the reset request alone (R140, R166). -/
@[simp] theorem writebackAt_resetRequest (w : Option Slot) (x : Nat) (o : Osc) :
    (writebackAt w x o).resetRequest = o.resetRequest := by
  simp [Osc.resetRequest]

/-- The request of a tick that services `x` is that of the record phase A left (R160). -/
theorem requestPhase_of_services {s : State} {p : Inputs} {x : Nat} {o : Osc} (h : Services s p x)
    (ho : s.osc[x]? = some o) :
    requestPhase s.cfg (serviceCursor s.sched p.update) (writebackPhase (oldest s.cfg s.pipe) s.osc) =
      (writebackAt (oldest s.cfg s.pipe) x o).request s.cfg x o.resetRequest := by
  rw [(serviceCursor_eq_some s p x).2 h]
  simp [requestPhase, writebackPhase_at, ho]

/-- Phase A leaves the pair with the landing partials added (R166). -/
theorem writebackAt_pair (s : State) (x : Nat) (o : Osc) :
    (writebackAt (oldest s.cfg s.pipe) x o).sin = s.sinAfterLanding x o ∧
      (writebackAt (oldest s.cfg s.pipe) x o).cos = s.cosAfterLanding x o := by
  rw [writebackAt_oldest]
  exact ⟨rfl, rfl⟩

/-- Settles O22: the service acts on the record phase A left; its reset overrides the landed pair, and nothing else of
phases B and C touches the pair. -/
theorem tickSineAndCosine : Obligations.TickSineAndCosine := by
  intro s x o ho
  refine ⟨_, _, exec_tick_eq s, by rw [tick_at, ho, Option.map_some], ?_⟩
  rw [writeAt_acc, writeAt_sin, writeAt_cos, writeAt_dir, writeAt_wave]
  obtain ⟨hsin, hcos⟩ := writebackAt_pair s x o
  have hreq := writebackAt_resetRequest (oldest s.cfg s.pipe) x o
  refine ⟨fun hserv hreset => ?_, fun hserv hreset => ?_, fun hno => ?_⟩
  · have hreset' := hreq.trans hreset
    rw [serviceAt_of_services hserv]
    refine ⟨?_, ?_, Osc.serviced_cos_of_reset s.cfg hreset', fun hD => ?_, fun hw => ?_, fun h2 h3 => ?_⟩
    · rw [Osc.serviced_acc]; exact if_pos hreset'
    · rw [Osc.serviced_sin]; exact if_pos hreset'
    · have hrr : o.resetRequest = true := hreset
      rw [tick_pipe, shiftPhase_zero _ _ _ hD, requestPhase_of_services hserv ho, hrr, Osc.request_of_reset]
      rfl
    · rw [writeAt_of_no_write _ _ _ _ hw, Osc.serviced_inc, writebackAt_inc]
    · rw [Osc.serviced_wave, writebackAt_wave, writebackAt_pmask, mergedWave_of_unstaged _ _ h2 h3]
  · rw [serviceAt_of_services hserv, Osc.serviced_acc_toNat, writebackAt_pmask, writebackAt_pval,
      if_neg (Bool.eq_false_iff.1 hreset), writebackAt_acc, writebackAt_wave, writebackAt_inc]
  · rw [← hsin, ← hcos]
    by_cases hserv : Services s s.inp x
    · rw [serviceAt_of_services hserv]
      exact Osc.serviced_pair_of_no_reset s.cfg fun hreset => hno ⟨hserv, hreq.symm.trans hreset⟩
    · rw [serviceAt_of_not_services hserv]
      exact ⟨rfl, rfl⟩

/-! ### The staged bits after a tick (R144, R146) -/

/-- The host changes the staged value by an accepted WFDR write to the oscillator (R103). -/
theorem writeAt_pval (c : Config) (p : Inputs) (x : Nat) (o : Osc) : (writeAt c p x o).pval =
    if p.writeEnable = true ∧ p.select = true ∧ p.address = x ∧ x < c.N then
      maskedReplace o.pval p.mask (wfdrValue p.dataIn)
    else o.pval := by
  by_cases hacc : p.writeEnable = true ∧ p.address = x ∧ x < c.N
  · obtain ⟨hw, rfl, hN⟩ := hacc
    rw [writeAt_of_accepted hw hN]
    cases hsel : p.select <;> simp [hw, hN]
  · rw [writeAt_of_unwritten hacc, if_neg]
    rintro ⟨hw, -, haddr, hN⟩
    exact hacc ⟨hw, haddr, hN⟩

/-- After phase B a mask bit is set when it was staged and no service consumed it (R144). -/
theorem serviceAt_pmask_bit (s : State) (p : Inputs) (x : Nat) (o : Osc) (k : Nat) :
    (serviceAt s.cfg (serviceCursor s.sched p.update) x o).pmask.getLsbD k = true ↔
      ¬ Services s p x ∧ o.pmask.getLsbD k = true := by
  by_cases hserv : Services s p x
  · rw [serviceAt_of_services hserv, Osc.serviced_pmask]
    exact iff_of_false (by simp) fun h => h.1 hserv
  · rw [serviceAt_of_not_services hserv]
    exact (and_iff_right hserv).symm

/-- The staged value of a WFDR write is the low four bits of the data (R71). -/
theorem wfdrValue_bit (d : Word) {k : Nat} (h : k < 4) : (wfdrValue d).getLsbD k = d.getLsbD k := by
  simp [wfdrValue, h]

/-- Settles O23: the service merges the waveform and clears the mask, and then the host write stages its bits. -/
theorem tickWaveformAndStaging : Obligations.TickWaveformAndStaging := by
  intro s x o ho
  refine ⟨_, _, exec_tick_eq s, by rw [tick_at, ho, Option.map_some], ?_⟩
  rw [writeAt_wave, writeAt_pval, writeAt_pmask, serviceAt_pval, writebackAt_pval]
  refine ⟨fun hserv => ?_, fun hserv k hk => ?_, ?_⟩
  · rw [serviceAt_of_not_services hserv, writebackAt_wave]
  · rw [serviceAt_of_services hserv, Osc.serviced_wave, writebackAt_wave, writebackAt_pmask, writebackAt_pval,
      mergedWave_bit _ _ _ hk]
  · intro staged k hk
    have hstaged : (s.inp.writeEnable = true ∧ s.inp.select = true ∧ s.inp.address = x ∧ x < s.cfg.N) ↔
        staged = true := by simp [staged, and_assoc]
    have hmerged := serviceAt_pmask_bit s s.inp x (writebackAt (oldest s.cfg s.pipe) x o) k
    rw [writebackAt_pmask] at hmerged
    simp only [hstaged, ← hmerged]
    cases staged
    · simp
    · simp [maskedReplace_bit _ _ _ _ hk, wfdrValue_bit _ hk, or_comm]

/-! ### The rows of the merge (R140 to R144) -/

section
variable {s : State} {i : Nat} {o : Osc} (hs : s.sched = .servicing i) (ho : s.osc[i]? = some o)
include hs ho

theorem exec_mergeWave_at : exec .mergeWave s =
    .next (s.setOsc i { o with wave := maskedReplace o.wave (waveField o.pmask) (waveField o.pval) }) :=
  congrArg Host.Outcome.next (onCursor_eq s _ i o hs ho)

theorem exec_mergeDir_at : exec .mergeDir s = .next (s.setOsc i { o with dir := mergedDir o.pmask o.pval o.dir }) :=
  congrArg Host.Outcome.next (onCursor_eq s _ i o hs ho)

theorem exec_oscReset_at : exec .oscReset s = .next (if s.sig.rr then s.setOsc i (o.restart s.cfg) else s) :=
  congrArg Host.Outcome.next (onCursor_eq s _ i o hs ho)

theorem exec_maskClear_at : exec .maskClear s = .next (s.setOsc i { o with pmask := 0 }) :=
  congrArg Host.Outcome.next (onCursor_eq s _ i o hs ho)

end

/-- Settles O35: the row is the restart of R143 by the record's own direction, under `rr`. -/
theorem oscResetRestartsThePair : Obligations.OscResetRestartsThePair := by
  intro s i o hs ho
  rw [exec_oscReset_at hs ho]
  rfl

/-- Settles O32: the row records R140's conjunction of the two reset fields. -/
theorem resetRequestReadsTheStagedBits : Obligations.ResetRequestReadsTheStagedBits := by
  intro s i o hs ho
  rw [exec_resetRequest_at hs ho]
  rfl

/-- Settles O33: the masked replace of R141, bit by bit. -/
theorem mergeWaveIsBitByBit : Obligations.MergeWaveIsBitByBit := by
  intro s i o hs ho
  exact ⟨_, exec_mergeWave_at hs ho, fun _ hk => mergedWave_bit o.wave o.pmask o.pval hk⟩

/-- Settles O34: the row is R142's choice by the direction's mask bit. -/
theorem mergeDirTakesTheStagedDirection : Obligations.MergeDirTakesTheStagedDirection := by
  intro s i o hs ho
  rw [exec_mergeDir_at hs ho]
  rfl

/-- Settles O36: the row replaces the mask alone. -/
theorem maskClearConsumesEveryBit : Obligations.MaskClearConsumesEveryBit := by
  intro s i o hs ho
  rw [exec_maskClear_at hs ho]
  rfl

/-! ### The merge is its rows (R145) -/

/-- Replacing a record by itself changes nothing. -/
theorem setOsc_self {s : State} {i : Nat} {o : Osc} (ho : s.osc[i]? = some o) : s.setOsc i o = s := by
  obtain ⟨hi, rfl⟩ := List.getElem?_eq_some_iff.1 ho
  exact congrArg (fun osc => { s with osc := osc }) (List.set_getElem_self hi)

/-- OSC_RESET as a replacement of the cursor's record, with `rr` set or clear (R143). -/
theorem exec_oscReset_setOsc {s : State} {i : Nat} {o : Osc} (hs : s.sched = .servicing i)
    (ho : s.osc[i]? = some o) :
    exec .oscReset s = .next (s.setOsc i (if s.sig.rr then o.restart s.cfg else o)) := by
  rw [exec_oscReset_at hs ho]
  split
  · rfl
  · rw [setOsc_self ho]

/-- The record after MERGE_WAVE and MERGE_DIR (R141, R142). -/
def Osc.mergedFields (o : Osc) : Osc :=
  { o with
    wave := maskedReplace o.wave (waveField o.pmask) (waveField o.pval)
    dir := mergedDir o.pmask o.pval o.dir }

/-- The merge of one record: the reset acts on the merged fields, and the mask is cleared last (R145). -/
theorem Osc.merge_eq_parts (c : Config) (o : Osc) : o.merge c o.pmask o.pval =
    { (if o.resetRequest then o.mergedFields.restart c else o.mergedFields) with pmask := 0 } := by
  unfold Osc.merge Osc.resetRequest
  cases resetRequested o.pmask o.pval <;> rfl

/-- Settles O37: the rows before OSC_RESET leave the staged bits alone and leave it the record's reset request and its
merged direction. -/
theorem mergeIsItsParts : Obligations.MergeIsItsParts := by
  intro s
  obtain hnone | ⟨i, o, hs, ho⟩ := cursor_cases s
  · refine ⟨s, congrArg Host.Outcome.next (hnone.onCursor_eq _), execAll_of_forall_next fun j hj => ?_⟩
    fin_cases hj <;> exact congrArg Host.Outcome.next (hnone.onCursor_eq _)
  · refine ⟨_, exec_merge_at hs ho, ?_⟩
    have hwave := setOsc_at ho { o with wave := maskedReplace o.wave (waveField o.pmask) (waveField o.pval) }
    have hdir := setOsc_at hwave o.mergedFields
    have hreset := setOsc_at hdir (if o.resetRequest then o.mergedFields.restart s.cfg else o.mergedFields)
    calc execAll [.resetRequest, .mergeWave, .mergeDir, .oscReset, .maskClear] s
        = _ := execAll_cons _ _ _ _ (exec_resetRequest_at hs ho)
      _ = _ := execAll_cons _ _ _ _ (exec_mergeWave_at hs ho)
      _ = _ := execAll_cons _ _ _ _ (exec_mergeDir_at hs hwave)
      _ = _ := execAll_cons _ _ _ _ (exec_oscReset_setOsc hs hdir)
      _ = _ := execAll_cons _ _ _ _ (exec_maskClear_at hs hreset)
      _ = _ := by simp only [execAll, State.setOsc, List.set_set, Osc.merge_eq_parts]

end Sys2Proof.Machine
end

section
/-!
The statements of 43_sine_engine.md: what a service issues, how a request moves through the pipeline and lands, that
nothing else but a reset changes the pair, and the rows of the engine.
-/
namespace Sys2Proof.Machine

/-! ### What a step does to the pipeline (R165) -/

/-- A step moves every slot one place on (R165). -/
theorem step_pipe_succ {s t : State} (h : step s = .next t) {k : Nat} (hk : k + 1 < s.cfg.D) :
    t.pipe[k + 1]? = s.pipe[k]? := by
  obtain ⟨p, rfl⟩ := step_next_tick h
  exact shiftPhase_succ s.cfg _ s.pipe k hk

/-- What stands in slot 0 is in slot `k` after `k` steps (R165). -/
theorem steps_slot {s : State} {r : Slot} (hs : s.Inv) (hfits : s.ScriptFits) (h0 : s.pipe[0]? = some r) (k : Nat)
    (hk : k < s.cfg.D) :
    ∃ t, steps k s = .next t ∧ t.pipe[k]? = some r ∧ t.cfg = s.cfg ∧ t.Inv ∧ t.ScriptFits := by
  induction k with
  | zero => exact ⟨s, rfl, h0, rfl, hs, hfits⟩
  | succ k ih =>
    obtain ⟨t, hrun, hslot, hcfg, ht, htfits⟩ := ih (by omega)
    obtain ⟨u, hu⟩ := exists_step htfits
    obtain ⟨huinv, hufits⟩ := everyStepKeepsTheInvariant t u ht htfits hu
    exact ⟨u, steps_succ_of_step k s t u hrun hu, (step_pipe_succ hu (hcfg ▸ hk)).trans hslot,
      (step_cfg hu).trans hcfg, huinv, hufits⟩

theorem Slot.tgt_lt_of_wf {c : Config} {w : Slot} (h : w.wf c = true) : w.tgt < c.N := by
  obtain ⟨htgt, -⟩ := Bool.and_eq_true_iff.1 h
  exact of_decide_eq_true htgt

namespace State.Inv

variable {s : State} (h : s.Inv)
include h

/-- Legal parameters allow at least one slot (R100). -/
theorem D_pos : 0 < s.cfg.D := by
  obtain ⟨hlegal, -⟩ := h
  simp only [legal, decide_eq_true_eq] at hlegal
  obtain ⟨-, hD, -⟩ := hlegal
  exact Nat.pos_of_ne_zero hD

theorem pipe_length : s.pipe.length = s.cfg.D := by
  obtain ⟨-, -, hpipe, -⟩ := h
  exact hpipe

/-- A slot's target is one of the oscillators (R34). -/
theorem exists_target {k : Nat} {r : Slot} (hr : s.pipe[k]? = some r) : ∃ o, s.osc[r.tgt]? = some o := by
  obtain ⟨-, hosc, -, hall, -⟩ := h
  have hwf : r.wf s.cfg = true := List.all_eq_true.1 hall r (List.mem_of_getElem? hr)
  exact ⟨_, List.getElem?_eq_getElem (hosc.symm ▸ Slot.tgt_lt_of_wf hwf)⟩

end State.Inv

/-! ### The pair over a step (R166 to R168) -/

/-- Off a reset, phase B leaves the pair as phase A left it (R143). -/
theorem serviceAt_pair_of_no_reset {c : Config} {cur : Option Nat} {x : Nat} {o : Osc}
    (h : ¬ (cur = some x ∧ o.resetRequest = true)) :
    (serviceAt c cur x o).sin = o.sin ∧ (serviceAt c cur x o).cos = o.cos := by
  by_cases hserv : cur = some x
  · rw [serviceAt, if_pos hserv]
    exact Osc.serviced_pair_of_no_reset c fun hreset => h ⟨hserv, hreset⟩
  · rw [serviceAt_of_ne hserv]
    exact ⟨rfl, rfl⟩

/-- Settles O55: of a step's three phases on a record, the write-back adds the landing request, the service leaves the
pair unless it resets, and the host write never touches it. -/
theorem pairChangesOnlyByLandingOrReset : Obligations.PairChangesOnlyByLandingOrReset := by
  intro s t x o o' h ho ho' hno
  have hat := step_at h x
  rw [ho, ho', Option.map_some] at hat
  have hno' : ¬ (s.services = some x ∧ (writebackAt (oldest s.cfg s.pipe) x o).resetRequest = true) := by
    rw [writebackAt_resetRequest]
    exact hno
  obtain ⟨hsin, hcos⟩ := serviceAt_pair_of_no_reset (c := s.cfg) hno'
  obtain ⟨hsinA, hcosA⟩ := writebackAt_pair s x o
  rw [Option.some.inj hat, writeAt_sin, writeAt_cos]
  exact ⟨hsin.trans hsinA, hcos.trans hcosA⟩

/-- An enabled oldest slot is the request that lands at its target (R166). -/
theorem landing_of_oldest {s : State} {r : Slot} (hr : s.pipe[s.cfg.D - 1]? = some r) (hen : r.en = true) :
    s.landing r.tgt = some r := by
  simp [State.landing, hr, hen]

/-- Settles O58: the request moves on by one slot a step, is the oldest after `D - 1` steps, and lands in the next. -/
theorem requestLandsAfterExactlyDTicks : Obligations.RequestLandsAfterExactlyDTicks := by
  intro s t r hs hfits h h0 hen
  obtain ⟨ht, htfits⟩ := everyStepKeepsTheInvariant s t hs hfits h
  rw [← step_cfg h]
  refine ⟨fun k hk => ?_, ?_⟩
  · obtain ⟨q, hrun, hslot, -⟩ := steps_slot ht htfits h0 k hk
    exact ⟨q, hrun, hslot⟩
  · obtain ⟨q, hrun, hslot, hcfg, hq, hqfits⟩ :=
      steps_slot ht htfits h0 (t.cfg.D - 1) (Nat.sub_one_lt_of_lt ht.D_pos)
    obtain ⟨q', hq'⟩ := exists_step hqfits
    obtain ⟨o, ho⟩ := hq.exists_target hslot
    have ho' := step_at hq' r.tgt
    rw [ho, Option.map_some] at ho'
    refine ⟨q, q', o, _, hrun, hq', ho, ho', fun hno => ?_⟩
    have hland : q.landing r.tgt = some r := landing_of_oldest (hcfg ▸ hslot) hen
    obtain ⟨hsin, hcos⟩ := pairChangesOnlyByLandingOrReset q q' r.tgt o _ hq' ho ho' hno
    rw [hsin, hcos, State.sinAfterLanding, State.cosAfterLanding, hland]
    exact ⟨rfl, rfl⟩

/-! ### The request of a service (R160 to R164) -/

/-- The request of a service, with R161's and R162's floored products written out. -/
theorem Osc.request_eq (c : Config) (o : Osc) (i : Nat) (rr : Bool) : o.request c i rr =
    if o.wave = 0b11 ∧ rr = false then
      ⟨true, BitVec.ofInt 16 (o.cos.toInt * (o.inc.toNat : Int) / 2 ^ c.mulShift),
        BitVec.ofInt 16 (-(o.sin.toInt * (o.inc.toNat : Int)) / 2 ^ c.mulShift), i⟩
    else ⟨false, 0, 0, 0⟩ := by
  simp only [Osc.request, issues_eq_true]
  rfl

/-- The condition of R164's disabled slot, on a serviced record. -/
theorem issues_eq_false (wave : WaveCode) (rr : Bool) : issues wave rr = false ↔ wave ≠ 0b11 ∨ rr = true := by
  rw [Bool.eq_false_iff, ne_eq, issues_eq_true, not_and_or, Bool.not_eq_false]

/-- A tick whose service, if any, does not issue requests nothing (R164). -/
theorem requestPhase_of_no_issue {s : State} {p : Inputs}
    (h : ∀ x o, s.osc[x]? = some o → Services s p x → o.wave ≠ 0b11 ∨ o.resetRequest = true) :
    requestPhase s.cfg (serviceCursor s.sched p.update) (writebackPhase (oldest s.cfg s.pipe) s.osc) = .empty := by
  obtain hempty | ⟨x, o', hcur, ho', hissue, -⟩ := requestPhase_cases s.cfg (serviceCursor s.sched p.update)
    (writebackPhase (oldest s.cfg s.pipe) s.osc)
  · exact hempty
  · rw [writebackPhase_at] at ho'
    obtain ⟨o, ho, rfl⟩ := Option.map_eq_some_iff.1 ho'
    rw [writebackAt_wave, writebackAt_resetRequest] at hissue
    have hno := (issues_eq_false _ _).2 (h x o ho ((serviceCursor_eq_some s p x).1 hcur))
    cases hissue.symm.trans hno

/-- Settles O25: the shift of phase D brings in the request of the record that phase A left. -/
theorem tickPipeline : Obligations.TickPipeline := by
  intro s hs
  refine ⟨_, exec_tick_eq s, ?_, fun k hk => ?_, fun x o ho hserv hwave hreset => ?_, fun hno => ?_⟩
  · rw [tick_pipe]; exact shiftPhase_length s.cfg _ s.pipe hs.pipe_length
  · rw [tick_pipe]; exact shiftPhase_succ s.cfg _ s.pipe k hk
  · have hrr : o.resetRequest = false := hreset
    obtain ⟨hsin, hcos⟩ := writebackAt_pair s x o
    rw [tick_pipe, shiftPhase_zero _ _ _ hs.D_pos, requestPhase_of_services hserv ho, Osc.request_eq,
      writebackAt_wave, writebackAt_inc, hsin, hcos, if_pos ⟨hwave, hrr⟩]
  · rw [tick_pipe, shiftPhase_zero _ _ _ hs.D_pos, requestPhase_of_no_issue hno]
    rfl

/-! ### The range of the products (R161, R162) -/

/-- Reduction to 16 bits keeps a value that a signed word can hold (R14). -/
theorem trunc16_toInt {v : Int} (hlo : -2 ^ 15 ≤ v) (hhi : v < 2 ^ 15) : (trunc16 v).toInt = v := by
  rw [trunc16, BitVec.toInt_ofInt]
  exact Int.bmod_eq_of_le hlo hhi

/-- The exact product of a signed and an unsigned word. -/
theorem product_bounds (x inc : Word) :
    -32768 * 65535 ≤ x.toInt * (inc.toNat : Int) ∧ x.toInt * (inc.toNat : Int) ≤ 32767 * 65535 := by
  have hlo : -32768 ≤ x.toInt := BitVec.le_toInt x
  have hhi : x.toInt ≤ 32767 := Int.le_of_lt_add_one BitVec.toInt_lt
  have hinc : (inc.toNat : Int) ≤ 65535 := by have := inc.isLt; omega
  have hnonneg : (0 : Int) ≤ inc.toNat := Int.natCast_nonneg _
  constructor <;> nlinarith only [hlo, hhi, hinc, hnonneg]

/-- Settles O41: the floored quotients by 2^16 of the product's bounds fit a signed word. -/
theorem productsFitAtShiftSixteen : Obligations.ProductsFitAtShiftSixteen := by
  intro c x inc hshift
  obtain ⟨hlo, hhi⟩ := product_bounds x inc
  have hsin : (mulSin c x inc).toInt = x.toInt * (inc.toNat : Int) / 65536 := by
    rw [mulSin, asr, hshift]
    exact trunc16_toInt (by omega) (by omega)
  have hcos : (mulCos c x inc).toInt = -(x.toInt * (inc.toNat : Int)) / 65536 := by
    rw [mulCos, asr, hshift]
    exact trunc16_toInt (by omega) (by omega)
  exact ⟨hsin, hcos, by omega, by omega⟩

/-! ### The rows of the engine (R160 to R166) -/

section
variable {s : State} {i : Nat} {o : Osc} (hs : s.sched = .servicing i) (ho : s.osc[i]? = some o)
include hs ho

theorem exec_mulsin_at :
    exec .mulsin s = .next { s with sig := { s.sig with sp := mulSin s.cfg o.cos o.inc } } :=
  congrArg Host.Outcome.next (onCursor_eq s _ i o hs ho)

theorem exec_mulcos_at :
    exec .mulcos s = .next { s with sig := { s.sig with cp := mulCos s.cfg o.sin o.inc } } :=
  congrArg Host.Outcome.next (onCursor_eq s _ i o hs ho)

theorem noIssueSelected_at : noIssueSelected s = !issues o.wave s.sig.rr := by
  simp only [noIssueSelected, hs, ho]

end

/-- Settles O38: the row is the request of the cursor's record under the `rr` that stands. -/
theorem issueCarriesBothProducts : Obligations.IssueCarriesBothProducts := by
  intro s i o hs ho
  rw [exec_issue_at hs ho, Osc.request_eq]

/-- Settles O39: R161's product of the cosine state. -/
theorem mulsinIsTheFlooredProduct : Obligations.MulsinIsTheFlooredProduct := by
  intro s i o hs ho
  rw [exec_mulsin_at hs ho]
  rfl

/-- Settles O40: R162's product of the sine state, negated before the floor. -/
theorem mulcosIsTheFlooredNegatedProduct : Obligations.MulcosIsTheFlooredNegatedProduct := by
  intro s i o hs ho
  rw [exec_mulcos_at hs ho]
  rfl

/-- NO_ISSUE clears the request where nothing issues (R164). -/
theorem exec_noIssue_eq (s : State) : exec .noIssue s =
    .next (if noIssueSelected s then { s with sig := { s.sig with req := ⟨false, 0, 0, 0⟩ } } else s) := rfl

/-- Settles O42: an Idle scheduler has no cursor, and under a cursor the row acts where R160's condition fails. -/
theorem noIssueDisablesTheRequest : Obligations.NoIssueDisablesTheRequest := by
  intro s
  refine ⟨fun hidle => ?_, fun i o hs ho hno => ?_, fun i o hs ho hwave hrr => ?_⟩
  · have hnone : NoCursor s := fun i hi => nomatch hidle.symm.trans hi
    rw [exec_noIssue_eq, if_pos hnone.noIssueSelected]
  · rw [exec_noIssue_eq, noIssueSelected_at hs ho, (issues_eq_false _ _).2 hno]
    rfl
  · rw [exec_noIssue_eq, noIssueSelected_at hs ho, (issues_eq_true _ _).2 ⟨hwave, hrr⟩]
    rfl

/-- Settles O43: the row is phase D on the request that stands. -/
theorem shiftMovesEverySlot : Obligations.ShiftMovesEverySlot := by
  intro s hlen hD
  exact ⟨_, rfl, shiftPhase_length s.cfg s.sig.req s.pipe hlen, shiftPhase_zero s.cfg s.sig.req s.pipe hD,
    fun k hk => shiftPhase_succ s.cfg s.sig.req s.pipe k hk, rfl⟩

/-- Phase A with an enabled slot replaces its target's record (R166). -/
theorem writebackPhase_of_enabled {w : Slot} {osc : List Osc} {o : Osc} (hen : w.en = true)
    (ho : osc[w.tgt]? = some o) :
    writebackPhase (some w) osc = osc.set w.tgt (o.accumulate w.sp w.cp) := by
  rw [writebackPhase, if_pos hen, modify_eq_set osc w.tgt o _ ho]

/-- Phase A with a disabled slot does nothing (R166). -/
theorem writebackPhase_of_disabled {w : Slot} (hen : w.en = false) (osc : List Osc) :
    writebackPhase (some w) osc = osc := by
  rw [writebackPhase, if_neg (Bool.eq_false_iff.1 hen)]

/-- Settles O44: the row is phase A on the oldest slot. -/
theorem writebackAddsThePartials : Obligations.WritebackAddsThePartials := by
  intro s w hw
  have hexec : exec .writeback s = .next { s with osc := writebackPhase (some w) s.osc } := by
    rw [← hw]; rfl
  refine ⟨fun o hen ho => ?_, fun hen => ?_⟩
  · rw [hexec, writebackPhase_of_enabled hen ho]
    rfl
  · rw [hexec, writebackPhase_of_disabled hen]

end Sys2Proof.Machine
end

section
/-!
The statements of 44_output_decode.md: what each row of the decoder shows for the addressed oscillator, and the
symmetries of the output.
-/
namespace Sys2Proof.Machine

/-! ### The rows of the decoder (R180 to R184) -/

/-- The decoder's row for one waveform (R180 to R183). -/
def decodeRow : Waveform → Instr
  | .ramp => .decodeRamp
  | .square => .decodeSquare
  | .triangle => .decodeTriangle
  | .sine => .decodeSine

section
variable {s : State} {o : Osc} (ha : s.inp.address < s.cfg.N) (ho : s.osc[s.inp.address]? = some o)
include ha ho

/-- DECODE shows the output of the addressed record (R184). -/
theorem exec_decode_at : exec .decode s = .next (s.present o.output) :=
  congrArg Host.Outcome.next (onAddressed_eq s _ o ha ho)

/-- An operation for one waveform acts on an addressed record that has it. -/
theorem onAddressed_of_wave_eq {c : WaveCode} (hwave : o.wave = c) (f : Osc → State) :
    onAddressed s (fun o => if o.wave = c then f o else s) = f o := by
  rw [onAddressed_eq s _ o ha ho, if_pos hwave]

/-- The row for the addressed record's own waveform shows its output (R180 to R183). -/
theorem exec_decodeRow_at (W : Waveform) (hwave : o.wave = W.code) :
    exec (decodeRow W) s = .next (s.present o.output) := by
  rw [o.output_eq W hwave]
  cases W <;> exact congrArg Host.Outcome.next (onAddressed_of_wave_eq ha ho hwave _)

/-- The row for the addressed record's waveform and DECODE show one value, the record's output (R184). -/
theorem decodeRow_and_decode_show (W : Waveform) (hwave : o.wave = W.code) {v : Word} (hv : o.output = v) :
    exec (decodeRow W) s = .next (s.present v) ∧ exec .decode s = .next (s.present v) := by
  subst hv
  exact ⟨exec_decodeRow_at ha ho W hwave, exec_decode_at ha ho⟩

end

/-- Settles O46: on Ramp and on Triangle the output is the accumulator negated by the direction, a subtraction from
2^16. -/
theorem decodeRampAndTriangleNegateByDirection : Obligations.DecodeRampAndTriangleNegateByDirection := by
  intro s o ha ho v
  have hneg : negateIf o.dir o.acc = v := negateIf_eq_ofNat o.dir o.acc
  refine ⟨fun hramp => ?_, fun htriangle => ?_⟩
  · exact decodeRow_and_decode_show ha ho .ramp hramp ((o.output_eq .ramp hramp).trans hneg)
  · exact decodeRow_and_decode_show ha ho .triangle htriangle ((o.output_eq .triangle htriangle).trans hneg)

/-- Settles O45: on Sine the output is the sine state. -/
theorem decodeSineShowsTheSineState : Obligations.DecodeSineShowsTheSineState := by
  intro s o ha ho hsine
  exact decodeRow_and_decode_show ha ho .sine hsine (o.output_eq .sine hsine)

/-- Settles O47: on Square the output is the level of R183. -/
theorem decodeSquareShowsTheTopBit : Obligations.DecodeSquareShowsTheTopBit := by
  intro s o ha ho hsquare v
  have hlevel : squareLevel o.dir o.acc = v := squareLevel_eq o.dir o.acc
  exact decodeRow_and_decode_show ha ho .square hsquare ((o.output_eq .square hsquare).trans hlevel)

/-! ### The symmetries of the output (R185) -/

/-- On Ramp and on Triangle the direction enters the output by the negation alone (R181, R182). -/
theorem Osc.output_with_dir {o : Osc} (hwave : o.wave = 0b00 ∨ o.wave = 0b10) (d : Bool) :
    ({ o with dir := d } : Osc).output = if d then -o.acc else o.acc := by
  rw [← negateIf_eq]
  obtain hramp | htriangle := hwave
  · exact Osc.output_eq { o with dir := d } .ramp hramp
  · exact Osc.output_eq { o with dir := d } .triangle htriangle

/-- Square's top bit is the accumulator's XOR the direction (R183). -/
theorem squareLevel_top_bit (d : Bool) (acc : Word) : (squareLevel d acc).getLsbD 15 = (acc.getLsbD 15 ^^ d) := by
  rw [squareLevel, BitVec.getLsbD_append, if_neg (by omega)]
  simp

/-- Below the top bit Square is 0 (R183). -/
theorem squareLevel_low_bit (d : Bool) (acc : Word) {k : Nat} (hk : k < 15) :
    (squareLevel d acc).getLsbD k = false := by
  rw [squareLevel, BitVec.getLsbD_append, if_pos hk, BitVec.getLsbD_zero]

/-- Settles O48: with the direction clear, Ramp and Triangle show the accumulator, and with it set its negation; Square
shows the level of R183. -/
theorem decodeSymmetries : Obligations.DecodeSymmetries := by
  intro o
  refine ⟨fun hwave => ?_, fun hsquare => ?_⟩
  · rw [Osc.output_with_dir hwave true, Osc.output_with_dir hwave false]
    rfl
  · rw [o.output_eq .square hsquare]
    exact ⟨squareLevel_top_bit o.dir o.acc, fun k hk => squareLevel_low_bit o.dir o.acc hk⟩

end Sys2Proof.Machine
end

section
/-!
The statements of 60_exceptions.md: no run stops, CONFIGURE rejects exactly the parameters of R200, and a write out of
range is dropped whole.
-/
namespace Sys2Proof.Machine

/-! ### Every run goes on (R203, R206) -/

/-- A step keeps the parameters and takes one word off the script, so what is left still fits the ports. -/
theorem State.ScriptFits.step {s t : State} (hfits : s.ScriptFits) (h : step s = .next t) : t.ScriptFits := by
  rw [State.ScriptFits, step_cfg h, step_script h]
  exact List.all_eq_true.2 fun w hw => List.all_eq_true.1 hfits w (List.mem_of_mem_tail hw)

/-- Settles O52, by induction on the number of steps: a step from a fitting script answers a state with a fitting
script. -/
theorem noRunStops : Obligations.NoRunStops := by
  intro k
  induction k with
  | zero => exact fun s _ => ⟨s, rfl⟩
  | succ k ih =>
    intro s hfits
    obtain ⟨t, ht⟩ := exists_step hfits
    obtain ⟨u, hu⟩ := ih t (hfits.step ht)
    exact ⟨u, by rw [steps, ht]; exact hu⟩

/-! ### ConfigError (R200) -/

/-- Parameters are illegal for one of the five causes of R200. -/
theorem legal_eq_false_iff (c : Config) : legal c = false ↔
    c.N = 0 ∨ c.D = 0 ∨ c.addrW < max 1 (Nat.clog 2 c.N) ∨ 14 < c.fracBits ∨ 31 < c.mulShift := by
  simp only [legal, decide_eq_false_iff_not, not_and_or, not_not, ne_eq, Nat.not_le]

/-- CONFIGURE faults on illegal parameters alone; on legal ones it constructs a bank (R100, R200). -/
theorem exec_configure_fault_iff {n d a f m : Nat} (s : State) :
    exec (.configure n d a f m) s = .fault .configError ↔ legal ⟨n, d, a, f, m⟩ = false := by
  cases hlegal : legal ⟨n, d, a, f, m⟩
  · exact iff_of_true (if_neg (Bool.eq_false_iff.1 hlegal)) rfl
  · rw [exec_configure_of_legal s hlegal]
    exact iff_of_false nofun nofun

/-- Settles O8: CONFIGURE faults on illegal parameters, and these are the causes of R200. -/
theorem configErrorExactlyOnBadParameters : Obligations.ConfigErrorExactlyOnBadParameters :=
  ⟨fun n d a f m s => (exec_configure_fault_iff s).trans (legal_eq_false_iff ⟨n, d, a, f, m⟩), rfl⟩

/-! ### A write out of range (R201) -/

/-- Phase C of a write out of range changes no record. -/
theorem hostWrite_of_outOfRange {c : Config} {p : Inputs} (h : c.N ≤ p.address) (osc : List Osc) :
    hostWrite c p osc = osc :=
  List.ext_getElem? fun _ => hostWrite_at_unaddressed (.inr h) osc

/-- The tick of a write out of range is that of NOWRITE with the same pulse and address, and `write_error`. -/
theorem tick_of_outOfRange_write {p : Inputs} {s : State} (hw : p.writeEnable = true) (h : s.cfg.N ≤ p.address) :
    tick p s = { tick (.nowrite p.update p.address) s with
      inp := p
      out := { (tick (.nowrite p.update p.address) s).out with writeError := true } } := by
  rw [tick_eq_write_after_nowrite, hostWrite_of_outOfRange h, (writeError_eq_true_iff s.cfg p).2 ⟨hw, h⟩]

/-- An instruction that runs the tick of a write out of range runs NOWRITE but for the recorded write group and the
error, code 2. -/
theorem exec_of_outOfRange_write {i : Instr} {p : Inputs} {s : State} (hi : exec i s = .next (tick p s))
    (hw : p.writeEnable = true) (h : s.cfg.N ≤ p.address) :
    ∃ t n, exec i s = .next t ∧ exec (.nowrite p.update p.address) s = .next n ∧
      t = { n with inp := t.inp, out := { n.out with writeError := true } } ∧ t.out.code = 2 := by
  refine ⟨_, _, hi, rfl, tick_of_outOfRange_write hw h, ?_⟩
  rw [tick_of_outOfRange_write hw h]
  rfl

/-- Settles O13: each operation that writes runs the tick of its own write, with its own pulse and address. -/
theorem outOfRangeWriteIsDropped : Obligations.OutOfRangeWriteIsDropped := by
  intro s u sel d r a m v imm16 W ha i hi
  obtain hi | hi := List.mem_append.1 hi
  · simp only [List.mem_cons, List.not_mem_nil, or_false] at hi
    obtain rfl | rfl | rfl | rfl | rfl | rfl := hi
    · exact exec_of_outOfRange_write (p := .wrpinc u a imm16) rfl rfl ha
    · exact exec_of_outOfRange_write (p := .wrwfdr u a m v) rfl rfl ha
    all_goals exact exec_of_outOfRange_write (p := .wrwfdr u a _ _) rfl rfl ha
  · cases u
    case false => cases hi
    case true =>
      obtain rfl := List.mem_singleton.1 hi
      exact exec_of_outOfRange_write (p := .pulse true sel m imm16 a) rfl rfl ha

end Sys2Proof.Machine
end

section
/-!
The statement of 70_reset_and_hazards.md about the reset state: construction with the default parameters (R220) meets the
invariant, and with nothing scripted there is no word that the ports could not present.
-/
namespace Sys2Proof.Machine

/-- CONFIGURE accepts the default parameters (R100; log entry 2). -/
theorem legal_default : legal .default = true := by decide

/-- An empty script fits every ADDR_W, so the block constructed with it has only idle inputs to present (R81). -/
theorem construct_nil_scriptFits (c : Config) : (State.construct c []).ScriptFits := by
  rw [State.ScriptFits, construct_script, List.all_nil]

/-- Settles O9: reset is a construction, with legal parameters and an empty script. -/
theorem resetIsWellShaped : Obligations.ResetIsWellShaped :=
  ⟨construct_inv [] legal_default, construct_nil_scriptFits .default⟩

end Sys2Proof.Machine
end

section
/-!
The statements of 30_encoding.md section 5 and of the programs of 95_test_vectors.md: each pseudo-instruction runs as its
expansion (R82), and the words the spec writes out decode to the operations it writes beside them.
-/
namespace Sys2Proof

/-- The WFDR value of R82, packed field by field, is the OR of its shifted fields. -/
theorem wfdrBits_eq_shifts (W : Waveform) (d r : Bool) :
    wfdrBits W d r =
      W.code.setWidth 4 <<< 2 ||| (if d then 1 else 0 : Nibble) <<< 1 ||| (if r then 1 else 0 : Nibble) := by
  rw [wfdrBits]
  generalize W.code = c
  revert c d r
  decide

/-- SETWAVE stages the waveform code alone (R82). -/
theorem wfdrBits_wave (W : Waveform) : wfdrBits W false false = W.code.setWidth 4 <<< 2 := by
  simp [wfdrBits_eq_shifts]

/-- SETDIR stages the direction alone: Ramp's code, in the unmasked bits, is 0 (R78, R82). -/
theorem wfdrBits_dir (d : Bool) : wfdrBits .ramp d false = (if d then 1 else 0 : Nibble) <<< 1 := by
  simp [wfdrBits_eq_shifts, Waveform.code]

/-- A word that encodes an operation decodes to it where the decoder's spelling is the operation itself. -/
theorem decode_eq_of_encode {i : Instr} {w : HostWord} (h : encode i = some w) (hi : i.spelling = i) :
    decode w = .ok i :=
  (decode_encode h).trans (congrArg Except.ok hi)

/-- Settles O2: each word is the encoding of the operation beside it (R71, R81, R82), and the decoder's spelling of that
operation is the operation itself. -/
theorem specWordsDecode : Obligations.SpecWordsDecode := by
  refine ⟨?nowrite, ?wrpinc, ?wrpincWithPulse, ?wrwfdr, ?update, ?resetosc, ?setwave, ?setdir, ?setwdr⟩
  all_goals exact decode_eq_of_encode rfl rfl

end Sys2Proof

namespace Sys2Proof.Machine

/-- `IDLE*k` is a run of `k` NOWRITEs without the pulse (R81, R101). -/
theorem execAll_replicate_nowrite (k : Nat) (s : State) :
    execAll (List.replicate k (.nowrite false 0)) s = .next (idleTicks k s) := by
  induction k generalizing s with
  | zero => rfl
  | succ k ih =>
    calc execAll (.nowrite false 0 :: List.replicate k (.nowrite false 0)) s
        = execAll (List.replicate k (.nowrite false 0)) (tick .idle s) := execAll_cons _ _ _ _ rfl
      _ = .next (idleTicks k (tick .idle s)) := ih _

/-- Settles O14: the write of each of the first four is that of its WRWFDR, by the value R82 gives; SWEEP and WAIT are
runs of idle ticks, SWEEP's after the tick of an UPDATE. -/
theorem pseudoInstructionsAreTheirExpansions : Obligations.PseudoInstructionsAreTheirExpansions := by
  intro s u a W d r k dd rr
  refine ⟨⟨_, rfl, rfl⟩, ⟨_, rfl, ?setwave⟩, ⟨_, rfl, ?setdir⟩, ⟨_, rfl, ?setwdr⟩, ⟨_, rfl, ?sweep⟩, ⟨_, rfl, ?wait⟩⟩
  case setwave => rw [← wfdrBits_wave]; rfl
  case setdir => rw [← wfdrBits_dir]; rfl
  case setwdr => rw [← wfdrBits_eq_shifts]; rfl
  case sweep => exact (execAll_cons _ _ _ _ rfl).trans (execAll_replicate_nowrite _ _)
  case wait => exact execAll_replicate_nowrite k s

end Sys2Proof.Machine
end
